-- ==== Sys2Proof/Word.lean ====
section
/-! DEFINITION. The word types of the Harvil 3124: the fixed-width quantities that software and link
partners see as bits. Their widths are those of spec/11_formats_reference.md (R184) and of
spec/00_scope.md, Section 5. -/

namespace Sys2Proof

/-- One byte of a packet, a command block or a record. -/
abbrev Byte := BitVec 8

/-- A 48-bit link address (spec/00_scope.md, Section 5). -/
abbrev Addr := BitVec 48

/-- A value of the timebase, a 32-bit count of microseconds that wraps. -/
abbrev Time := BitVec 32

/-- A generation, the 16-bit count of list swaps (R91). -/
abbrev Gen := BitVec 16

/-- A label, 1 to 65535; 0 names no entry (R1). -/
abbrev Label := BitVec 16

/-- A unit number, 0 to 31 (R159). -/
abbrev UnitNo := BitVec 5

/-- A tag, 0 to 127 (R160). -/
abbrev Tag := BitVec 7

/-- A link sequence number, 0 to 4095, wrapping (R176). -/
abbrev SeqNo := BitVec 12

/-- A set of unit numbers, bit n for unit n (Tables 11-4 and 11-5). -/
abbrev UnitSet := BitVec 32

/-- A hold id, 1 to 255; 0 names no held request (R72). -/
abbrev HoldId := BitVec 8

end Sys2Proof
end

