-- ==== Sys2Proof/Syntax.lean ====
section
/-! DEFINITION. The commands of the block: one constructor for each row of spec/opcode_table.json, in
the table's order. The table gives a row no operand fields; an operand here says which port, tag, hold
id or party the event is about, or carries the bytes that arrived. -/

namespace Sys2Proof

/-- The two link ports. -/
inductive Port where
  /-- Port U, toward the host complex. -/
  | u
  /-- Port D, toward the downstream fabric. -/
  | d
  deriving DecidableEq, Repr

/-- The three parties that make offers to the transmit queues and allocations at the tracker, and
report completions to the Steering Engine (R50, R147, R23). -/
inductive Party where
  /-- The dispatcher of a port. -/
  | dispatcher (p : Port)
  /-- The Hold Queue, for the release in progress. -/
  | hold
  deriving DecidableEq, Repr

/-- The steps of the part (spec/95_what_each_step_holds.md), one constructor for each row. -/
inductive Instr where
  /-- Cold reset; `strap` is the level of APSEL3 to APSEL0 at its end (R169, R108). -/
  | coldReset (strap : BitVec 4)
  /-- Port `p` takes the reference clock becoming stable (R169). -/
  | referenceClockStable (p : Port)
  /-- A transmission opportunity of `p` used for a TRAIN (R171). -/
  | sendTrain (p : Port)
  /-- A TRAIN of phase SPEED arrives on `p`, given as its bytes on the wire (R172). -/
  | speedReceived (p : Port) (wire : List Byte)
  /-- A TRAIN of phase IDENT arrives on `p` (R173). -/
  | identReceived (p : Port) (wire : List Byte)
  /-- A TRAIN of phase READY, or a first good packet or ACK in the READY phase, arrives on `p` (R174). -/
  | readyReceived (p : Port) (wire : List Byte)
  /-- The attempt deadline of `p` expires (R175). -/
  | attemptDeadlineExpiry (p : Port)
  /-- The hold-off of port U expires (R182). -/
  | holdOffExpiry
  /-- A packet of the P, N or C channel arrives on `p` (R177). -/
  | receivePacket (p : Port) (wire : List Byte)
  /-- An ACK arrives on `p` (R144). -/
  | ackReceived (p : Port) (wire : List Byte)
  /-- A REPLAY_REQ arrives on `p` (R178). -/
  | replayReqReceived (p : Port) (wire : List Byte)
  /-- The acknowledgement deadline of `p` expires (R179). -/
  | ackDeadlineExpiry (p : Port)
  /-- A transmission opportunity of `p` used for an owed ACK (R142). -/
  | sendAck (p : Port)
  /-- A transmission opportunity of `p` used for a pending REPLAY_REQ (R177). -/
  | sendReplayReq (p : Port)
  /-- A transmission opportunity of `p` used for a replay (R178). -/
  | replayResend (p : Port)
  /-- A transmission opportunity of `p` used for a head of the three channels (R151). -/
  | transmitPacket (p : Port)
  /-- The dispatcher of `p` takes a head (R26). -/
  | dispatch (p : Port)
  /-- The Hold Queue takes the HOLD offer of the dispatcher of `p` (R73). -/
  | holdOffer (p : Port)
  /-- The P offer of a party is taken (R34). -/
  | pTransmitOffer (party : Party)
  /-- The tracker takes the allocation of a party (R50). -/
  | tagAllocation (party : Party)
  /-- The N placement of a party is taken (R35). -/
  | nTransmitPlacement (party : Party)
  /-- The Steering Engine takes the oldest completion report of a party (R23). -/
  | hitCountReport (party : Party)
  /-- The C head of `p` is presented to the tracker (R51). -/
  | replyPresentation (p : Port)
  /-- The restored reply of the C head of `p` is taken (R54). -/
  | replyTake (p : Port)
  /-- The AWAITING entry of a tag expires (R59). -/
  | entryExpiry (tag : Tag)
  /-- The drain fence entry of `p` expires (R60). -/
  | drainFenceExpiry (p : Port)
  /-- The ORPHANED entry of a tag expires (R61). -/
  | orphanedExpiry (tag : Tag)
  /-- The oldest CLOSING entry whose origin is `p` offers its reply (R61). -/
  | closingReplyPlacement (p : Port)
  /-- The cooling period of a tag ends (R46). -/
  | coolingExpiry (tag : Tag)
  /-- The hold limit of a held record ends (R74). -/
  | holdExpiry (id : HoldId)
  /-- The oldest ANSWERING slot whose origin is `p` offers its reply (R75). -/
  | holdAnswerPlacement (p : Port)
  /-- The Management Unit takes the NOP at the head of the command queue (R126). -/
  | nop
  /-- The Management Unit takes the INSERT at the head of the command queue (R85). -/
  | insert
  /-- The Management Unit takes the REMOVE at the head of the command queue (R86). -/
  | remove
  /-- The Management Unit takes the MODIFY at the head of the command queue (R87). -/
  | modify
  /-- The Management Unit takes the MOVE at the head of the command queue (R88). -/
  | move
  /-- The Management Unit takes the CLEAR_STAGING at the head of the command queue (R89). -/
  | clearStaging
  /-- The Management Unit takes the COMMIT at the head of the command queue (R92). -/
  | commit
  /-- The Management Unit takes the FORCE_DRAIN at the head of the command queue (R102). -/
  | forceDrain
  /-- The Management Unit takes the RELEASE at the head of the command queue (R77). -/
  | release
  /-- The wait of the release in progress ends (R77). -/
  | releaseWaitEnd
  /-- The next of the release steps is taken (R78). -/
  | releaseSteps
  /-- The Management Unit takes the DISCARD at the head of the command queue (R76). -/
  | discard
  /-- The Management Unit takes the SET_PARAM at the head of the command queue (R123). -/
  | setParam
  /-- The Management Unit takes the SET_APERTURE at the head of the command queue (R109). -/
  | setAperture
  /-- The Management Unit takes the SET_MANAGERS at the head of the command queue (R115). -/
  | setManagers
  /-- The Management Unit takes the LOCK_MANAGERS at the head of the command queue (R115). -/
  | lockManagers
  /-- The Management Unit takes the LINK_RESTART at the head of the command queue (R125). -/
  | linkRestart
  /-- The Management Unit takes the WARM_RESET at the head of the command queue (R127). -/
  | warmReset
  /-- The Management Unit takes the BATCH at the head of the command queue, or goes on with it, for at
  most `members` members before another event may come between (R121). -/
  | batch (members : Nat)
  /-- The head of the command queue is a command write that cannot be parsed (R119). -/
  | malformedCommandBlock
  /-- The head of the command queue lies outside the aperture map (R110). -/
  | unsupportedApertureAccess
  /-- The head of the command queue comes from a unit outside the manager set (R114). -/
  | notManagerRefusal
  /-- The head of the command queue is a notice pop (R113). -/
  | noticePop
  /-- The reply of the head of the command queue is offered to U's C transmit queue (R116). -/
  | commandReplyPlacement
  /-- The Notice Unit's emission offer is taken (R134). -/
  | noticeEmission
  deriving DecidableEq, Repr

end Sys2Proof
end

