-- ==== Sys2Proof/Config.lean ====
section
/-! DEFINITION. What one implementation fixes: the capacities and times the guide states, and the free
values of the model, opaque constants that stand for what the guide leaves open. -/

namespace Sys2Proof.Config

/-! ### Stated capacities -/

/-- The most entries either list holds (R7). -/
def listCapacity : Nat := 64
/-- The slots of the Hold Queue (R70). -/
def holdSlots : Nat := 8
/-- The slots of the command queue (R116). -/
def commandSlots : Nat := 4
/-- The records the notice queue holds (R131). -/
def noticeCapacity : Nat := 32
/-- The packets the replay store holds (R176). -/
def replayCapacity : Nat := 64
/-- The traffic tags, 0 to 125 (R44). -/
def trafficTags : Nat := 126
/-- The most members of a batch (R121). -/
def batchMembers : Nat := 16
/-- The largest payload of a packet (Table 9-1). -/
def maxPayload : Nat := 256

/-! ### Stated times, in microseconds -/

/-- An expiry is taken no later than this after its deadline (spec/00_scope.md, Section 5). -/
def tolerance : Nat := 50
/-- The length of a training attempt (R171). -/
def attemptTime : Time := 2000
/-- The acknowledgement deadline (R176). -/
def ackTime : Time := 1000
/-- The hold-off of a FAULTED port U (R182). -/
def holdOffTime : Time := 10000

/-! ### Free values -/

/-- The check code of a packet: 32 bits over every byte before it (R185). The guide gives no
algorithm, so it is a free function of those bytes (notes/assumptions/4.md). -/
opaque checkCode : List Byte → BitVec 32

/-- Whose notice request is taken next when several blocks raise notices at one event (R131 allows
either order): the event's number and how many requests are still to be taken
(notes/assumptions/5.md). -/
opaque noticeTurn : Nat → Nat → Nat

/-- The order among tracker entries that enter CLOSING at one event, which R61 does not fix: the
event's number and the tag (notes/assumptions/6.md). -/
opaque closeRank : Nat → Tag → Nat

/-- The order among hold slots that become ANSWERING at one event, which R75 does not fix: the event's
number and the hold id (notes/assumptions/6.md). -/
opaque answerRank : Nat → HoldId → Nat

end Sys2Proof.Config
end

