-- ==== Sys2Proof/Machine/State.lean ====
section
/-! DEFINITION. The state of the Harvil 3124 as plain data: every register, queue, counter, mode and
list the guide gives its blocks (Table 0-1), and its value at cold reset. INVENTORY.md lists each field
with the rule that names it. -/

namespace Sys2Proof.Machine

/-! ### Containers -/

/-- One value for each port. -/
structure Duo (α : Type) where
  u : α
  d : α
  deriving DecidableEq, Repr

/-- The three channels (R140). -/
inductive Chan where
  /-- Posted writes. -/
  | p
  /-- Non-posted requests. -/
  | n
  /-- Replies. -/
  | c
  deriving DecidableEq, Repr

/-- One value for each channel. -/
structure Trio (α : Type) where
  p : α
  n : α
  c : α
  deriving DecidableEq, Repr

/-! ### Packets -/

/-- The kinds of a P, N or C packet (Table 9-1); `other` is a kind byte outside the table, which is
counted as an N packet (R140). -/
inductive PacketKind where
  | write
  | writeAck
  | read
  | fence
  | reply
  | other (code : Byte)
  deriving DecidableEq, Repr

/-- The header fields and the first 256 payload bytes of a P, N or C packet (Table 9-2, R140). The
address reads 0 where the kind has none, and the status reads 0 on anything but a REPLY. -/
structure Packet where
  kind : PacketKind
  source : UnitNo
  dest : UnitNo
  tag : Tag
  length : BitVec 16
  status : Byte
  address : Addr
  payload : List Byte
  deriving DecidableEq, Repr

/-- The reply statuses of Table 9-3. -/
inductive ReplyStatus where
  | ok
  | refused
  | boundary
  | timeout
  | aborted
  | linkDown
  | partnerError
  | unsupported
  | busy
  deriving DecidableEq, Repr

/-! ### Link ports (Chapters 8 and 10) -/

/-- A slot of an ingress queue: the packet, its arrival stamp, and the mark a warm reset puts on an N
packet (R140, R43). -/
structure InSlot where
  packet : Packet
  stamp : Nat
  aborted : Bool
  deriving DecidableEq, Repr

/-- A slot of a transmit queue or the fence slot: the packet and its transmit stamp (R146). -/
structure OutSlot where
  packet : Packet
  stamp : Nat
  deriving DecidableEq, Repr

/-- A packet of the replay store with its sequence number (R176). -/
structure SentPacket where
  seq : SeqNo
  packet : Packet
  deriving DecidableEq, Repr

/-- The link states of Table 10-1. -/
inductive LinkState where
  | offline
  | training
  | up
  | retraining
  | faulted
  deriving DecidableEq, Repr

/-- The phases of a training attempt (R171). -/
inductive Phase where
  | speed
  | ident
  | ready
  deriving DecidableEq, Repr

/-- The modes of a training attempt: NEW in TRAINING, RESUME in RETRAINING (R172). -/
inductive Mode where
  | new
  | resume
  deriving DecidableEq, Repr

/-- The lane counts of an offer (R172). -/
inductive Lanes where
  | x1
  | x2
  | x4
  deriving DecidableEq, Repr

/-- The rates of an offer, in Gbit/s per lane (R172). -/
inductive Rate where
  | g5
  | g10
  | g20
  deriving DecidableEq, Repr

/-- A lane count and a rate: an offer, an agreed width and rate, or a LINK_PREF value. -/
structure Offer where
  lanes : Lanes
  rate : Rate
  deriving DecidableEq, Repr

/-- A training attempt in progress (R171 to R174). -/
structure Attempt where
  phase : Phase
  deadline : Time
  mode : Mode
  /-- The port's own offer, taken from LINK_PREF as the SPEED phase begins (R172). -/
  offer : Offer
  /-- The partner's offer of this attempt, once its SPEED is taken. -/
  partner : Option Offer
  /-- The agreed width and rate, once the partner's SPEED is taken (R172). -/
  agreed : Option Offer
  /-- The bridge unit as the IDENT phase begins (R173). -/
  unit : UnitNo
  /-- Whether the port's own IDENT of this attempt has been sent (R173). -/
  identSent : Bool
  /-- Whether the partner's IDENT of this attempt has been taken (R173). -/
  identTaken : Bool
  deriving DecidableEq, Repr

/-- The receive modes of R177. -/
inductive ReceiveMode where
  | inOrder
  | awaitingReplay
  deriving DecidableEq, Repr

/-- A link port: the state of Table 10-2 and the queues and credit of Chapter 8. -/
structure LinkPort where
  state : LinkState
  /-- The training attempt count (R175). -/
  attempts : Nat
  /-- Phase, attempt deadline and what the attempt has agreed; none outside training. -/
  attempt : Option Attempt
  /-- The TRAINs due at the next transmission opportunities: the TRAIN of a phase that has begun, and
  the resends of R171 and R174, in the order in which they fell due (notes/assumptions/46.md). -/
  owedTrains : List Phase
  /-- The negotiated width and rate; none is shown as 0 (R170). -/
  negotiated : Option Offer
  /-- The unit the partner gave in its last IDENT phase (R173). -/
  partnerUnit : Option UnitNo
  /-- The next transmit sequence number (R176). -/
  txNext : SeqNo
  /-- The replay store, in sequence order (R176). -/
  replayStore : List SentPacket
  /-- The sequence numbers a replay in progress has still to resend; empty when none is in progress
  (R178). -/
  replayLeft : List SeqNo
  /-- The replay round count (R178). -/
  rounds : Nat
  /-- The next expected sequence number (R177). -/
  rxNext : SeqNo
  rxMode : ReceiveMode
  /-- Whether an ACK is owed (R142). -/
  ackOwed : Bool
  /-- The sequence numbers that the REPLAY_REQs still to be sent name, oldest first (R177). -/
  replayReqs : List SeqNo
  /-- The acknowledgement deadline (R176). -/
  ackDeadline : Option Time
  /-- The hold-off deadline, port U only (R182). -/
  holdOff : Option Time
  /-- The partner's last credit values F for the three channels (R144). -/
  credit : Trio Nat
  /-- The acknowledged sequence number S held with the credit (R144, R145). -/
  acked : Option SeqNo
  /-- The ingress queues, oldest first (R140). -/
  ingress : Trio (List InSlot)
  /-- The next arrival stamp (R140). -/
  nextArrival : Nat
  /-- The transmit queues, oldest first (R146). -/
  transmit : Trio (List OutSlot)
  /-- The reserved fence slot (R148). -/
  fenceSlot : Option OutSlot
  /-- The next transmit stamp (R146). -/
  nextStamp : Nat
  /-- The transmit arbiter's round-robin pointer (R150). -/
  pointer : Chan
  /-- The bytes the port last put on its transmit lanes, check code included; none after cold reset. -/
  wire : Option (List Byte)
  deriving DecidableEq, Repr

/-! ### Steering entries and decisions (Chapter 1) -/

/-- The arrival field (R2). -/
inductive Arrival where
  | u
  | d
  | both
  deriving DecidableEq, Repr

/-- The kinds field (R2, Table 1-2). -/
inductive Kinds where
  | reads
  | writes
  | all
  deriving DecidableEq, Repr

/-- The action field (R4). -/
inductive Action where
  | forward
  | reflect
  | refuse
  | hold
  deriving DecidableEq, Repr

/-- A steering entry: the fields of Table 1-1. -/
structure Entry where
  label : Label
  arrival : Arrival
  sources : UnitSet
  kinds : Kinds
  base : Addr
  size : Nat
  action : Action
  target : Option UnitNo
  translated : Option Addr
  replyTimeout : Option Time
  holdLimit : Option Time
  notify : Option Bool
  pinned : Bool
  deriving DecidableEq, Repr

/-- An Active entry with its hit count and count origin (Section 1.8). -/
structure ActiveEntry where
  entry : Entry
  hits : BitVec 32
  origin : Gen
  deriving DecidableEq, Repr

/-- The default action of a port (R16). -/
inductive DefaultAction where
  | refuse
  | pass (target : UnitNo)
  deriving DecidableEq, Repr

/-- How a steered request leaves: the two steering actions and the PASS default (Table 1-4). -/
inductive Route where
  | forward
  | reflect
  | pass
  deriving DecidableEq, Repr

/-- The outcome and action of a decision, with the fields Table 1-4 gives for each. -/
inductive Ruling where
  /-- MATCH with FORWARD or REFLECT, or DEFAULT_PASS. -/
  | steer (route : Route) (egress : Port) (dest : UnitNo) (address : Addr) (timeout : Time)
  /-- MATCH with REFUSE. -/
  | refuse (notify : Bool)
  /-- MATCH with HOLD. -/
  | hold (limit : Time)
  /-- BOUNDARY. -/
  | boundary
  /-- DEFAULT_REFUSE. -/
  | defaultRefuse
  deriving DecidableEq, Repr

/-- A decision record (Table 1-3). -/
structure Decision where
  ruling : Ruling
  label : Label
  generation : Gen
  deriving DecidableEq, Repr

/-- A completion report on its way to the Steering Engine (R23). -/
structure Report where
  label : Label
  generation : Gen
  deriving DecidableEq, Repr

/-- The Steering Engine: both lists, the generation, the default actions, and the completion reports
it has not yet taken, oldest first for each party. -/
structure Steering where
  active : List ActiveEntry
  staging : List Entry
  generation : Gen
  defaults : Duo DefaultAction
  reports : Duo (List Report)
  holdReports : List Report
  deriving DecidableEq, Repr

/-! ### The Outstanding Tracker (Chapter 3) -/

/-- The kinds of a tracker entry (Table 3-1). -/
inductive TrackKind where
  | read
  | writeAck
  | fence
  | drainFence
  deriving DecidableEq, Repr

/-- The closing statuses of Table 3-1. -/
inductive CloseStatus where
  | timeout
  | aborted
  | linkDown
  deriving DecidableEq, Repr

/-- The states of Table 3-2. A CLOSING entry carries its closing status and the number of the event at
which it entered CLOSING (R61 takes the oldest first). -/
inductive TrackState where
  | awaiting
  | orphaned
  | closing (status : CloseStatus) (event : Nat)
  deriving DecidableEq, Repr

/-- The origin of a steered request or FENCE (Table 3-1). -/
structure Origin where
  port : Port
  unit : UnitNo
  tag : Tag
  deriving DecidableEq, Repr

/-- A tracker entry: the fields of Table 3-1. The origin is absent on a DRAIN_FENCE; the steered address
reads 0 on a FENCE or a DRAIN_FENCE. -/
structure TrackEntry where
  tag : Tag
  state : TrackState
  kind : TrackKind
  origin : Option Origin
  egress : Port
  dest : UnitNo
  address : Addr
  expected : BitVec 16
  label : Label
  generation : Gen
  timeout : Time
  dispatched : Time
  deadline : Time
  deriving DecidableEq, Repr

/-- A member of the cooling set with its release time (R46). -/
structure CoolingTag where
  tag : Tag
  release : Time
  deriving DecidableEq, Repr

/-- The Outstanding Tracker: its entries, the free pool (head first) and the cooling set. -/
structure Tracker where
  entries : List TrackEntry
  free : List Tag
  cooling : List CoolingTag
  deriving DecidableEq, Repr

/-! ### Dispatchers (Chapter 2) -/

/-- What a wait mark records as lacking (R25). -/
inductive Resource where
  /-- A slot of a transmit queue of a port. -/
  | transmit (p : Port) (ch : Chan)
  /-- A traffic tag. -/
  | tag
  /-- A Hold Queue slot. -/
  | holdSlot
  /-- A command queue slot. -/
  | commandSlot
  deriving DecidableEq, Repr

/-- The dispatch in progress, by the event it waits for. -/
inductive Work where
  /-- A steered posted write is offered to the egress P transmit queue (R34). -/
  | pOffer (dec : Decision)
  /-- A steered non-posted request asks for a traffic tag (R35). -/
  | allocate (dec : Decision)
  /-- A FENCE asks for a traffic tag, to leave by the given port (R39). -/
  | allocateFence (egress : Port)
  /-- A tagged request is offered to the egress N transmit queue; `dec` is absent for a FENCE (R35). -/
  | place (dec : Option Decision) (entry : TrackEntry)
  /-- The head of the channel is offered to the Hold Queue (R38). -/
  | holdOffer (ch : Chan) (dec : Decision)
  /-- The C head is presented to the tracker (R29). -/
  | present
  /-- The tracker answered Restore for the given entry (R54). -/
  | take (entry : TrackEntry)
  deriving DecidableEq, Repr

/-- A dispatcher: its round-robin pointer, the wait mark of each head (the resources lacking; empty
when the head carries no mark), and the dispatch in progress (R25). -/
structure Dispatcher where
  pointer : Chan
  marks : Trio (List Resource)
  work : Option Work
  deriving DecidableEq, Repr

/-! ### The Hold Queue (Chapter 4) -/

/-- The answer statuses of Table 4-1. -/
inductive AnswerStatus where
  | refused
  | boundary
  | linkDown
  | aborted
  deriving DecidableEq, Repr

/-- The state of an occupied slot: HELD with its deadline, or ANSWERING with its answer status and the
number of the event that made it so (R70, R75). -/
inductive HoldState where
  | held (deadline : Time)
  | answering (status : AnswerStatus) (event : Nat)
  deriving DecidableEq, Repr

/-- An occupied slot: the hold record of Table 4-1. -/
structure HoldSlot where
  id : HoldId
  state : HoldState
  origin : Port
  request : Packet
  label : Label
  generation : Gen
  entered : Time
  limit : Time
  deriving DecidableEq, Repr

/-- How far the release in progress has come (R77, R78). -/
inductive ReleasePhase where
  /-- It waits for the older posted writes of its origin port (R77). -/
  | waiting
  /-- The release lookup comes next (step 1 of R78). -/
  | lookup
  /-- A released posted write is offered to the egress P transmit queue. -/
  | pOffer (dec : Decision)
  /-- A released non-posted request asks for a traffic tag. -/
  | allocate (dec : Decision)
  /-- A released non-posted request is offered to the egress N transmit queue. -/
  | place (dec : Decision) (entry : TrackEntry)
  deriving DecidableEq, Repr

/-- The release in progress: the HELD record it was taken for, its release mark (none when the P ingress
queue was empty), its phase, and whether its result can still be delivered, which a port-down of U ends
(R77, R79). -/
structure Release where
  record : HoldSlot
  mark : Option Nat
  phase : ReleasePhase
  delivers : Bool
  deriving DecidableEq, Repr

/-- The Hold Queue: its occupied slots, oldest first, the last assigned hold id, and the release in
progress. -/
structure HoldQueue where
  slots : List HoldSlot
  lastId : HoldId
  release : Option Release
  deriving DecidableEq, Repr

/-! ### The commit controller (Chapter 5) -/

/-- The states of the commit controller (Table 5-2). -/
inductive CommitState where
  | idle
  | draining
  deriving DecidableEq, Repr

/-- The fence states of Table 5-3. -/
inductive FenceState where
  | none
  | skipped
  | outstanding
  | answered
  | expired
  | portDown
  | aborted
  deriving DecidableEq, Repr

/-- The outcomes of a drain (R100). -/
inductive DrainOutcome where
  | none
  | clean
  | late
  | forced
  | abandoned
  deriving DecidableEq, Repr

/-- The set of late causes (Table 5-3). -/
structure LateCauses where
  timeout : Bool
  linkDown : Bool
  aborted : Bool
  skipped : Bool
  deriving DecidableEq, Repr

/-- The Commit Status (Table 5-3), but for the current generation, which the Steering Engine keeps, and
the cooling indicator, which follows the fence tags and fence slots (R92). -/
structure Commit where
  state : CommitState
  drainGeneration : Gen
  remaining : Nat
  fences : Duo FenceState
  late : LateCauses
  forced : Bool
  lastOutcome : DrainOutcome
  accepted : Time
  done : Time
  deriving DecidableEq, Repr

/-! ### The Management Unit (Chapter 6) -/

/-- The commands of Table 6-3. -/
inductive CommandCode where
  | nop
  | insert
  | remove
  | modify
  | move
  | clearStaging
  | commit
  | forceDrain
  | release
  | discard
  | setParam
  | setAperture
  | setManagers
  | lockManagers
  | linkRestart
  | warmReset
  | batch
  deriving DecidableEq, Repr

/-- The result codes of Table 6-4. -/
inductive ResultCode where
  | done
  | accepted
  | busy
  | malformed
  | badField
  | dupLabel
  | noLabel
  | listFull
  | pinned
  | badPosition
  | notDraining
  | noHold
  | noTag
  | originDown
  | locked
  | notAllowed
  deriving DecidableEq, Repr

/-- The result of a command: its code and 32-bit value (R120). -/
structure Result where
  code : ResultCode
  value : BitVec 32
  deriving DecidableEq, Repr

/-- A batch in its execution pass: the members still to be carried out, the 1-based position of the
member at hand, and the result of the member before it (R121). -/
structure BatchRun where
  todo : List (CommandCode × List Byte)
  index : Nat
  last : Result
  deriving DecidableEq, Repr

/-- The reply of an access: its status and payload, and whether placing it performs the warm reset
(R117, R127). -/
structure AccessReply where
  status : ReplyStatus
  payload : List Byte
  warm : Bool
  deriving DecidableEq, Repr

/-- The states of an occupied command queue slot (R116). EXECUTING carries what is in progress. -/
inductive SlotState where
  | waiting
  /-- EXECUTING a single RELEASE. -/
  | executing
  /-- EXECUTING a batch. -/
  | executingBatch (run : BatchRun)
  /-- EXECUTING a notice pop that waits for C space (R113). -/
  | popping
  | answerReady (reply : AccessReply)
  | aborting
  deriving DecidableEq, Repr

/-- An occupied slot of the command queue (R116). -/
structure CommandSlot where
  source : UnitNo
  tag : Tag
  kind : PacketKind
  address : Addr
  offset : Nat
  length : BitVec 16
  payload : List Byte
  state : SlotState
  deriving DecidableEq, Repr

/-- The NOTICE_TARGET parameter (Table 6-5). -/
structure NoticeTarget where
  address : Addr
  unit : UnitNo
  enable : Bool
  deriving DecidableEq, Repr

/-- The parameter set of the Management Unit (Table 6-5). -/
structure Params where
  replyTimeout : Time
  holdLimit : Time
  noticeTarget : NoticeTarget
  unit : Duo UnitNo
  linkPref : Duo Offer
  deriving DecidableEq, Repr

/-- The Management Unit: the aperture base and its pending move, the manager set and its lock, the
command queue (head first) and the parameters. -/
structure Management where
  apertureBase : Addr
  pendingBase : Option Addr
  managers : UnitSet
  locked : Bool
  queue : List CommandSlot
  params : Params
  deriving DecidableEq, Repr

/-! ### The Notice Unit (Chapter 7) -/

/-- The notice kinds of Table 7-2, and NONE. -/
inductive NoticeKind where
  | none
  | refused
  | boundary
  | malformed
  | timeout
  | lateReply
  | partnerError
  | held
  | holdExpired
  | holdFull
  | holdDropped
  | commitDone
  | linkState
  | apertureMisuse
  | warmResetDone
  deriving DecidableEq, Repr

/-- What a raising block supplies of a notice record (R129). -/
structure NoticeReq where
  kind : NoticeKind
  port : Option Port
  unit : UnitNo
  tag : Tag
  address : Addr
  label : Label
  generation : Gen
  detail : BitVec 16
  deriving DecidableEq, Repr

/-- A notice record: the request and what the Notice Unit fills at acceptance (Table 7-1). -/
structure Notice where
  req : NoticeReq
  seq : BitVec 16
  time : Time
  droppedBefore : Nat
  deriving DecidableEq, Repr

/-- The Notice Unit: its queue, oldest first, the next sequence number and the waiting dropped count. -/
structure NoticeUnit where
  queue : List Notice
  nextSeq : BitVec 16
  dropped : Nat
  deriving DecidableEq, Repr

/-! ### The whole machine -/

/-- The state of the part. -/
structure State where
  /-- The timebase. -/
  timebase : Time
  ports : Duo LinkPort
  dispatchers : Duo Dispatcher
  steering : Steering
  tracker : Tracker
  hold : HoldQueue
  commit : Commit
  mgmt : Management
  notices : NoticeUnit
  /-- The MODEL's own field, not the guide's: the number of the next event at which the model consults
  a free order of Config or stamps closings and answers. -/
  events : Nat
  /-- The commands that wait, first in, first out. -/
  pending : List Instr
  deriving DecidableEq, Repr

/-- Why the machine stops with a fault. The guide stops the part nowhere: every event has a next state,
so this model has no fault (notes/assumptions/3.md). -/
inductive Fault where
  deriving DecidableEq, Repr

/-- Why a command has no meaning. -/
inductive Refusal where
  /-- Raised by `exec` for a command that is not modelled yet; safe, since the machine stops. No command
  of this model is refused. -/
  | notModelled (mnemonic : String)
  deriving DecidableEq, Repr

/-- A link port after cold reset (Table 10-2 and the table after R154). -/
def LinkPort.cold : LinkPort where
  state := .offline
  attempts := 0
  attempt := none
  owedTrains := []
  negotiated := none
  partnerUnit := none
  txNext := 0
  replayStore := []
  replayLeft := []
  rounds := 0
  rxNext := 0
  rxMode := .inOrder
  ackOwed := false
  replayReqs := []
  ackDeadline := none
  holdOff := none
  credit := ⟨0, 0, 0⟩
  acked := none
  ingress := ⟨[], [], []⟩
  nextArrival := 0
  transmit := ⟨[], [], []⟩
  fenceSlot := none
  nextStamp := 0
  pointer := .p
  wire := none

/-- A dispatcher after cold reset (R25). -/
def Dispatcher.cold : Dispatcher where
  pointer := .p
  marks := ⟨[], [], []⟩
  work := none

/-- The Steering Engine after cold reset (R9). -/
def Steering.cold : Steering where
  active := []
  staging := []
  generation := 0
  defaults := ⟨.refuse, .refuse⟩
  reports := ⟨[], []⟩
  holdReports := []

/-- The tracker after cold reset: the 126 traffic tags in ascending order (R69). -/
def Tracker.cold : Tracker where
  entries := []
  free := (List.range 126).map (BitVec.ofNat 7)
  cooling := []

/-- The Hold Queue after cold reset (R70, R72). -/
def HoldQueue.cold : HoldQueue where
  slots := []
  lastId := 0
  release := none

/-- The commit controller after cold reset (R104). -/
def Commit.cold : Commit where
  state := .idle
  drainGeneration := 0
  remaining := 0
  fences := ⟨.none, .none⟩
  late := ⟨false, false, false, false⟩
  forced := false
  lastOutcome := .none
  accepted := 0
  done := 0

/-- The parameters at their cold values (Table 6-5). -/
def Params.cold : Params where
  replyTimeout := 20000
  holdLimit := 1000
  noticeTarget := ⟨0, 0, false⟩
  unit := ⟨31, 31⟩
  linkPref := ⟨⟨.x4, .g20⟩, ⟨.x4, .g20⟩⟩

/-- The Management Unit after cold reset with strap 0 (R108, R128). -/
def Management.cold : Management where
  apertureBase := 0xFFF000000000
  pendingBase := none
  managers := 0xFFFFFFFF
  locked := false
  queue := []
  params := Params.cold

/-- The Notice Unit after cold reset (R139). -/
def NoticeUnit.cold : NoticeUnit where
  queue := []
  nextSeq := 0
  dropped := 0

/-- The machine right after cold reset, its straps at 0 (notes/assumptions/2.md), with no command
waiting. -/
def State.reset : State where
  timebase := 0
  ports := ⟨LinkPort.cold, LinkPort.cold⟩
  dispatchers := ⟨Dispatcher.cold, Dispatcher.cold⟩
  steering := Steering.cold
  tracker := Tracker.cold
  hold := HoldQueue.cold
  commit := Commit.cold
  mgmt := Management.cold
  notices := NoticeUnit.cold
  events := 0
  pending := []

end Sys2Proof.Machine
end

