-- ==== Sys2Proof/Machine/Containers.lean ====
section
/-! DEFINITION. Reading and writing one component of a container: one value for each port, one for each
channel. -/

namespace Sys2Proof.Machine

/-- The port opposite a port. -/
def otherPort : Port → Port
  | .u => .d
  | .d => .u

def Duo.get {α : Type} (x : Duo α) : Port → α
  | .u => x.u
  | .d => x.d

def Duo.set {α : Type} (x : Duo α) (p : Port) (a : α) : Duo α :=
  match p with
  | .u => { x with u := a }
  | .d => { x with d := a }

def Trio.get {α : Type} (x : Trio α) : Chan → α
  | .p => x.p
  | .n => x.n
  | .c => x.c

def Trio.set {α : Type} (x : Trio α) (ch : Chan) (a : α) : Trio α :=
  match ch with
  | .p => { x with p := a }
  | .n => { x with n := a }
  | .c => { x with c := a }

/-- The cycle P, N, C, P of the round-robin pointers (R25, R150). -/
def Chan.next : Chan → Chan
  | .p => .n
  | .n => .c
  | .c => .p

/-- The three channels in the cycle, from the one named (R30, R150). -/
def Chan.cycle (ch : Chan) : List Chan :=
  [ch, ch.next, ch.next.next]

end Sys2Proof.Machine
end

