-- ==== Sys2Proof/Machine/Formats.lean ====
section
/-! DEFINITION. The byte formats of spec/11_formats_reference.md: byte order, numeric codes, packets on
the wire, and the records that aperture reads and notices carry. -/

namespace Sys2Proof.Machine

/-! ### Byte order (R184) -/

/-- The `n` bytes of a field, least significant byte first. -/
def toLE : Nat → Nat → List Byte
  | 0, _ => []
  | n + 1, v => BitVec.ofNat 8 v :: toLE n (v / 256)

/-- The value of a field given by its bytes, least significant byte first. -/
def ofLE : List Byte → Nat
  | [] => 0
  | b :: bs => b.toNat + 256 * ofLE bs

/-- The value of the field of `n` bytes at offset `off`. -/
def field (bytes : List Byte) (off n : Nat) : Nat :=
  ofLE ((bytes.drop off).take n)

/-- The byte at offset `off`; 0 past the end. -/
def byteAt (bytes : List Byte) (off : Nat) : Byte :=
  bytes.getD off 0

/-- Bit `i` of the byte at offset `off`. -/
def bitAt (bytes : List Byte) (off i : Nat) : Bool :=
  (byteAt bytes off).getLsbD i

/-- A record filled with 0 up to `n` bytes (R187). -/
def padTo (n : Nat) (bytes : List Byte) : List Byte :=
  bytes ++ List.replicate (n - bytes.length) 0

/-! ### Codes (Table 11-3) -/

def PacketKind.code : PacketKind → Byte
  | .write => 0x01
  | .writeAck => 0x02
  | .read => 0x03
  | .fence => 0x04
  | .reply => 0x05
  | .other code => code

/-- The kind a kind byte names; a byte outside Table 9-1 gives `other`. -/
def packetKind (code : Byte) : PacketKind :=
  if code = 0x01 then .write
  else if code = 0x02 then .writeAck
  else if code = 0x03 then .read
  else if code = 0x04 then .fence
  else if code = 0x05 then .reply
  else .other code

/-- Whether a kind byte is that of a link-control packet: TRAIN, ACK or REPLAY_REQ. -/
def isLinkControl (code : Byte) : Bool :=
  code = 0x10 || code = 0x11 || code = 0x12

def ReplyStatus.code : ReplyStatus → Byte
  | .ok => 0
  | .refused => 1
  | .boundary => 2
  | .timeout => 3
  | .aborted => 4
  | .linkDown => 5
  | .partnerError => 6
  | .unsupported => 7
  | .busy => 8

/-- Whether a status byte is one of the codes of Table 9-3. -/
def knownStatus (status : Byte) : Bool :=
  status.toNat ≤ 8

def CommandCode.ofByte (b : Byte) : Option CommandCode :=
  [.nop, .insert, .remove, .modify, .move, .clearStaging, .commit, .forceDrain, .release, .discard,
    .setParam, .setAperture, .setManagers, .lockManagers, .linkRestart, .warmReset,
    .batch][b.toNat]?

def ResultCode.code : ResultCode → Byte
  | .done => 0
  | .accepted => 1
  | .busy => 2
  | .malformed => 3
  | .badField => 4
  | .dupLabel => 5
  | .noLabel => 6
  | .listFull => 7
  | .pinned => 8
  | .badPosition => 9
  | .notDraining => 10
  | .noHold => 11
  | .noTag => 12
  | .originDown => 13
  | .locked => 14
  | .notAllowed => 15

def portCode : Port → Byte
  | .u => 1
  | .d => 2

def optPortCode : Option Port → Byte
  | none => 0
  | some p => portCode p

def portOfCode (b : Byte) : Option Port :=
  if b = 1 then some .u else if b = 2 then some .d else none

def LinkState.code : LinkState → Byte
  | .offline => 1
  | .training => 2
  | .up => 3
  | .retraining => 4
  | .faulted => 5

def NoticeKind.code : NoticeKind → Byte
  | .none => 0
  | .refused => 1
  | .boundary => 2
  | .malformed => 3
  | .timeout => 4
  | .lateReply => 5
  | .partnerError => 6
  | .held => 7
  | .holdExpired => 8
  | .holdFull => 9
  | .holdDropped => 10
  | .commitDone => 11
  | .linkState => 12
  | .apertureMisuse => 13
  | .warmResetDone => 14

def Lanes.count : Lanes → Nat
  | .x1 => 1
  | .x2 => 2
  | .x4 => 4

def lanesOf (b : Byte) : Option Lanes :=
  if b = 1 then some .x1 else if b = 2 then some .x2 else if b = 4 then some .x4 else none

def Rate.gbit : Rate → Nat
  | .g5 => 5
  | .g10 => 10
  | .g20 => 20

def rateOf (b : Byte) : Option Rate :=
  if b = 5 then some .g5 else if b = 10 then some .g10 else if b = 20 then some .g20 else none

/-- An offer from its two bytes; none when either is not one of the listed values (R172, R186). -/
def offerOf (lanes rate : Byte) : Option Offer :=
  match lanesOf lanes, rateOf rate with
  | some l, some r => some ⟨l, r⟩
  | _, _ => none

def offerBytes (o : Offer) : List Byte :=
  [BitVec.ofNat 8 o.lanes.count, BitVec.ofNat 8 o.rate.gbit]

def Mode.code : Mode → Byte
  | .new => 1
  | .resume => 2

def FenceState.code : FenceState → Byte
  | .none => 0
  | .skipped => 1
  | .outstanding => 2
  | .answered => 3
  | .expired => 4
  | .portDown => 5
  | .aborted => 6

def DrainOutcome.code : DrainOutcome → Byte
  | .none => 0
  | .clean => 1
  | .late => 2
  | .forced => 3
  | .abandoned => 4

def Arrival.code : Arrival → Byte
  | .u => 1
  | .d => 2
  | .both => 3

def arrivalOf (b : Byte) : Option Arrival :=
  if b = 1 then some .u else if b = 2 then some .d else if b = 3 then some .both else none

def Kinds.code : Kinds → Byte
  | .reads => 1
  | .writes => 2
  | .all => 3

def kindsOf (b : Byte) : Option Kinds :=
  if b = 1 then some .reads else if b = 2 then some .writes else if b = 3 then some .all else none

def Action.code : Action → Byte
  | .forward => 1
  | .reflect => 2
  | .refuse => 3
  | .hold => 4

def actionOf (b : Byte) : Option Action :=
  if b = 1 then some .forward
  else if b = 2 then some .reflect
  else if b = 3 then some .refuse
  else if b = 4 then some .hold
  else none

def AnswerStatus.reply : AnswerStatus → ReplyStatus
  | .refused => .refused
  | .boundary => .boundary
  | .linkDown => .linkDown
  | .aborted => .aborted

def CloseStatus.reply : CloseStatus → ReplyStatus
  | .timeout => .timeout
  | .aborted => .aborted
  | .linkDown => .linkDown

def unitByte (n : UnitNo) : Byte := n.setWidth 8
def tagByte (t : Tag) : Byte := t.setWidth 8

/-! ### Packets on the wire (R155, R185) -/

/-- Whether the header of a kind ends in an address (Table 11-1). -/
def PacketKind.addressed : PacketKind → Bool
  | .write | .writeAck | .read => true
  | .fence | .reply | .other _ => false

/-- Whether a packet of a kind carries as many payload bytes as its length field gives (R155). -/
def PacketKind.carriesPayload : PacketKind → Bool
  | .write | .writeAck | .reply => true
  | .read | .fence | .other _ => false

/-- The bytes a packet of the P, N or C channel fills before its check code, by its kind and length
field (R155, R185). -/
def PacketKind.frameLength (kind : PacketKind) (length : Nat) : Nat :=
  (if kind.addressed then 16 else 10) + (if kind.carriesPayload then length else 0)

/-- The bytes a packet whose first bytes are `body` fills before its check code; none for a TRAIN whose
phase byte names no phase (Tables 11-1 and 11-2). -/
def frameLength (body : List Byte) : Option Nat :=
  let kind := byteAt body 0
  if kind = 0x10 then
    let phase := byteAt body 1
    if phase = 1 then some 5 else if phase = 2 then some 8 else if phase = 3 then some 2 else none
  else if kind = 0x11 then some 7
  else if kind = 0x12 then some 4
  else some ((packetKind kind).frameLength (field body 4 2))

/-- A received packet as the link port reads it. -/
inductive Frame where
  /-- A P, N or C packet with a good check code, and its sequence number. -/
  | traffic (pkt : Packet) (seq : SeqNo)
  /-- A P, N or C packet that fails its check code (R177). -/
  | damaged
  /-- TRAIN, phase SPEED: mode, lanes and rate bytes. -/
  | speed (mode lanes rate : Byte)
  /-- TRAIN, phase IDENT: unit, free P, N and C slots, last accepted sequence number. -/
  | ident (unit : UnitNo) (free : Trio Nat) (last : SeqNo)
  /-- TRAIN, phase READY. -/
  | ready
  /-- ACK: acknowledged sequence number and P, N and C credit. -/
  | ack (seq : SeqNo) (credit : Trio Nat)
  /-- REPLAY_REQ: last good sequence number. -/
  | replayReq (seq : SeqNo)
  /-- A link-control packet that fails its check code, or a TRAIN of no phase: discarded (R156, R171,
  R185). -/
  | discarded
  deriving DecidableEq, Repr

/-- The packet whose bytes before the check code are `body`, its higher bits and reserved bytes
ignored (R184, Table 11-1), its first 256 payload bytes kept (R140). -/
def readPacket (body : List Byte) : Packet :=
  let kind := packetKind (byteAt body 0)
  { kind := kind
    source := BitVec.ofNat 5 (field body 1 1)
    dest := BitVec.ofNat 5 (field body 2 1)
    tag := BitVec.ofNat 7 (field body 3 1)
    length := BitVec.ofNat 16 (field body 4 2)
    status := if kind = .reply then byteAt body 6 else 0
    address := if kind.addressed then BitVec.ofNat 48 (field body 10 6) else 0
    payload :=
      if kind.carriesPayload then
        (body.drop (if kind.addressed then 16 else 10)).take Config.maxPayload
      else [] }

/-- A packet with a good check code, read from the bytes before it. -/
def readBody (body : List Byte) : Frame :=
  let kind := byteAt body 0
  if kind = 0x10 then
    let phase := byteAt body 1
    if phase = 1 then .speed (byteAt body 2) (byteAt body 3) (byteAt body 4)
    else if phase = 2 then
      .ident (BitVec.ofNat 5 (field body 2 1)) ⟨field body 3 1, field body 4 1, field body 5 1⟩
        (BitVec.ofNat 12 (field body 6 2))
    else if phase = 3 then .ready
    else .discarded
  else if kind = 0x11 then
    .ack (BitVec.ofNat 12 (field body 2 2)) ⟨field body 4 1, field body 5 1, field body 6 1⟩
  else if kind = 0x12 then .replayReq (BitVec.ofNat 12 (field body 2 2))
  else .traffic (readPacket body) (BitVec.ofNat 12 (field body 8 2))

/-- The last 4 bytes of every packet are its check code, which covers every byte before it; bytes that
do not fill the packet's frame, or run past it, fail it (R155, R185). -/
def readWire (bytes : List Byte) : Frame :=
  let body := bytes.take (bytes.length - 4)
  let check := bytes.drop (bytes.length - 4)
  if frameLength body = some body.length ∧ check = toLE 4 (Config.checkCode body).toNat then
    readBody body
  else if isLinkControl (byteAt bytes 0) then .discarded
  else .damaged

/-- The bytes of a packet with its check code after them (R185). -/
def sealed (body : List Byte) : List Byte :=
  body ++ toLE 4 (Config.checkCode body).toNat

/-- The bytes of a P, N or C packet before its check code (Table 11-1). -/
def packetBytes (pkt : Packet) (seq : SeqNo) : List Byte :=
  [pkt.kind.code, unitByte pkt.source, unitByte pkt.dest, tagByte pkt.tag]
    ++ toLE 2 pkt.length.toNat ++ [pkt.status, 0] ++ toLE 2 seq.toNat
    ++ (if pkt.kind.addressed then toLE 6 pkt.address.toNat else []) ++ pkt.payload

/-- TRAIN, phase SPEED (Table 11-2). -/
def speedBytes (mode : Mode) (offer : Offer) : List Byte :=
  [0x10, 1, mode.code] ++ offerBytes offer

/-- TRAIN, phase IDENT (Table 11-2). -/
def identBytes (unit : UnitNo) (free : Trio Nat) (last : SeqNo) : List Byte :=
  [0x10, 2, unitByte unit, BitVec.ofNat 8 free.p, BitVec.ofNat 8 free.n, BitVec.ofNat 8 free.c]
    ++ toLE 2 last.toNat

/-- TRAIN, phase READY (Table 11-2). -/
def readyBytes : List Byte := [0x10, 3]

/-- ACK (Table 11-2). -/
def ackBytes (seq : SeqNo) (credit : Trio Nat) : List Byte :=
  [0x11, 0] ++ toLE 2 seq.toNat
    ++ [BitVec.ofNat 8 credit.p, BitVec.ofNat 8 credit.n, BitVec.ofNat 8 credit.c]

/-- REPLAY_REQ (Table 11-2). -/
def replayReqBytes (seq : SeqNo) : List Byte :=
  [0x12, 0] ++ toLE 2 seq.toNat

/-! ### Records (Section 11.3) -/

/-- A flag at a bit of a byte. -/
def flagBit (flag : Bool) (bit : Nat) : Byte :=
  if flag then BitVec.twoPow 8 bit else 0

/-- The entry image of Table 11-5; a field marked absent is shown as 0 (R186). -/
def entryImage (e : Entry) : List Byte :=
  toLE 2 e.label.toNat ++ [e.arrival.code, e.kinds.code] ++ toLE 4 e.sources.toNat
    ++ toLE 6 e.base.toNat ++ [e.action.code]
    ++ [flagBit e.target.isSome 0 ||| flagBit e.replyTimeout.isSome 1
          ||| flagBit e.holdLimit.isSome 2 ||| flagBit e.notify.isSome 3
          ||| flagBit (e.notify.getD false) 4 ||| flagBit e.pinned 5]
    ++ toLE 8 e.size ++ [unitByte (e.target.getD 0), 0] ++ toLE 6 (e.translated.getD 0).toNat
    ++ toLE 4 (e.replyTimeout.getD 0).toNat ++ toLE 4 (e.holdLimit.getD 0).toNat

/-- A list readback record of an Active entry (Table 11-7). -/
def activeRecord (a : ActiveEntry) : List Byte :=
  padTo 64 (entryImage a.entry ++ toLE 4 a.hits.toNat ++ toLE 2 a.origin.toNat)

/-- A list readback record of a staging entry: hit count and count origin read 0 (R187). -/
def stagingRecord (e : Entry) : List Byte :=
  padTo 64 (entryImage e)

/-- A hold record (Table 11-8): the answer status reads 0 while HELD, the deadline reads 0 while
ANSWERING, and only the first 32 payload bytes show (R187). -/
def holdRecord (h : HoldSlot) : List Byte :=
  let held := match h.state with
    | .held deadline => ((1 : Byte), (0 : Byte), deadline.toNat)
    | .answering status _ => (2, status.reply.code, 0)
  padTo 64 ([h.id, held.1, portCode h.origin, held.2.1] ++ toLE 2 h.label.toNat
    ++ toLE 2 h.generation.toNat ++ toLE 4 h.entered.toNat ++ toLE 4 h.limit.toNat
    ++ toLE 4 held.2.2
    ++ [h.request.kind.code, unitByte h.request.source, unitByte h.request.dest,
        tagByte h.request.tag]
    ++ toLE 2 h.request.length.toNat ++ toLE 6 h.request.address.toNat
    ++ h.request.payload.take 32)

/-- A notice record (Table 11-9). -/
def noticeRecord (n : Notice) : List Byte :=
  padTo 32 ([n.req.kind.code, optPortCode n.req.port, unitByte n.req.unit, tagByte n.req.tag]
    ++ toLE 2 n.seq.toNat ++ toLE 2 n.req.label.toNat ++ toLE 2 n.req.generation.toNat
    ++ toLE 2 n.req.detail.toNat ++ toLE 4 n.time.toNat ++ toLE 6 n.req.address.toNat
    ++ [BitVec.ofNat 8 n.droppedBefore])

/-- The 8-byte result of a command write (R186). -/
def resultBytes (r : Result) (index : Nat) : List Byte :=
  [r.code.code, BitVec.ofNat 8 index, 0, 0] ++ toLE 4 r.value.toNat

end Sys2Proof.Machine
end

