-- ==== Sys2Proof/Machine/Operands.lean ====
section
/-! DEFINITION. The operands of the commands: command blocks and their bodies, decoded by the tables of
spec/11_formats_reference.md, Section 11.2, under R119, R121 and R186, and the validation of a steering
entry (R84). -/

namespace Sys2Proof.Machine

/-! ### Command blocks (R119, R121) -/

/-- The fixed body length of every command but BATCH (Table 11-4). -/
def CommandCode.bodyLength : CommandCode → Option Nat
  | .nop | .clearStaging | .commit | .forceDrain | .lockManagers | .warmReset => some 0
  | .insert => some 42
  | .remove | .release | .discard | .linkRestart => some 2
  | .modify => some 44
  | .move | .setManagers => some 4
  | .setParam => some 10
  | .setAperture => some 8
  | .batch => none

/-- A command block parsed from the whole of `bytes`; none when it is MALFORMED (R119). -/
def parseBlock (bytes : List Byte) : Option (CommandCode × List Byte) :=
  if bytes.length < 4 then none
  else
    match CommandCode.ofByte (byteAt bytes 0) with
    | none => none
    | some code =>
      let body := bytes.drop 4
      if byteAt bytes 1 = 0 ∧ field bytes 2 2 = body.length
          ∧ code.bodyLength.getD body.length = body.length then
        some (code, body)
      else none

/-- The outcome of the parse pass of a BATCH: its members, or the position of the first member at which
parsing failed (R121). -/
inductive Members where
  | parsed (members : List (CommandCode × List Byte))
  | failed (index : Nat)
  deriving DecidableEq, Repr

/-- The parse pass from member `index` on; `fuel` bounds the members looked at, which the seventeenth
ends in any case. -/
def parseMembersFrom : Nat → Nat → List Byte → Members
  | 0, index, _ => .failed index
  | fuel + 1, index, bytes =>
    if bytes = [] then
      if index = 1 then .failed 1 else .parsed []
    else if Config.batchMembers < index then .failed index
    else
      let span := 4 + field bytes 2 2
      if bytes.length < 4 ∨ bytes.length < span then .failed index
      else
        match parseBlock (bytes.take span) with
        | none => .failed index
        | some block =>
          match parseMembersFrom fuel (index + 1) (bytes.drop span) with
          | .parsed rest => .parsed (block :: rest)
          | .failed i => .failed i

/-- The parse pass over a BATCH body (R121). -/
def parseMembers (body : List Byte) : Members :=
  parseMembersFrom (Config.batchMembers + 2) 1 body

/-! ### Steering entries (R84) -/

/-- Whether a list holds a unit number (R2). -/
def UnitSet.holds (set : UnitSet) (unit : UnitNo) : Bool :=
  set.getLsbD unit.toNat

/-- The ports by which a request matched by an entry can leave (R4). -/
def Entry.egressPorts (e : Entry) : List Port :=
  match e.action, e.arrival with
  | .forward, .u => [.d]
  | .forward, .d => [.u]
  | .reflect, .u => [.u]
  | .reflect, .d => [.d]
  | .forward, .both | .reflect, .both => [.u, .d]
  | .refuse, _ | .hold, _ => []

/-- Whether an entry's action is FORWARD or REFLECT. -/
def Action.steers : Action → Bool
  | .forward | .reflect => true
  | .refuse | .hold => false

/-- Whether a reply timeout lies in its range (R5, Table 6-5). -/
def replyTimeoutInRange (t : Time) : Bool :=
  100 ≤ t.toNat && t.toNat ≤ 2000000

/-- Whether a hold limit lies in its range (R5, Table 6-5). -/
def holdLimitInRange (t : Time) : Bool :=
  10 ≤ t.toNat && t.toNat ≤ 1000000

/-- Whether an address is a multiple of the 4 KiB granule. -/
def onGranule (a : Addr) : Bool :=
  a.toNat % 0x1000 = 0

/-- Whether a base and size give a window under R3. -/
def windowValid (base : Addr) (size : Nat) : Bool :=
  onGranule base && size % 0x1000 = 0 && 0x1000 ≤ size && base.toNat + size ≤ 2 ^ 48

/-- The validation of an entry, its target unit tested against the bridge units given (R84). -/
def Entry.valid (units : Duo UnitNo) (e : Entry) : Bool :=
  e.label ≠ 0 && e.sources ≠ 0 && windowValid e.base e.size
    && e.target.isSome = e.action.steers && e.translated.isSome = e.action.steers
    && (match e.target with
        | none => true
        | some t => e.egressPorts.all fun p => t ≠ units.get p)
    && (match e.translated with
        | none => true
        | some t => onGranule t && t.toNat + e.size ≤ 2 ^ 48)
    && (match e.replyTimeout with
        | none => true
        | some t => e.action.steers && replyTimeoutInRange t)
    && (match e.holdLimit with
        | none => true
        | some t => e.action = .hold && holdLimitInRange t)
    && (e.notify = none || e.action = .refuse)

/-! ### Entry images (Table 11-5, R186) -/

/-- The fields of a MODIFY, each with its new value when selected; an optional field's new value may be
absent (R87). -/
structure EntryEdit where
  arrival : Option Arrival
  sources : Option UnitSet
  kinds : Option Kinds
  base : Option Addr
  size : Option Nat
  action : Option Action
  target : Option (Option UnitNo)
  translated : Option (Option Addr)
  replyTimeout : Option (Option Time)
  holdLimit : Option (Option Time)
  notify : Option (Option Bool)
  pinned : Option Bool
  deriving DecidableEq, Repr

def imageLabel (img : List Byte) : Label := BitVec.ofNat 16 (field img 0 2)
def imageSources (img : List Byte) : UnitSet := BitVec.ofNat 32 (field img 4 4)
def imageBase (img : List Byte) : Addr := BitVec.ofNat 48 (field img 8 6)
def imageSize (img : List Byte) : Nat := field img 16 8

/-- The target unit of an image, present when bit 0 of the presence byte is set. -/
def imageTarget (img : List Byte) : Option UnitNo :=
  if bitAt img 15 0 then some (BitVec.ofNat 5 (field img 24 1)) else none

/-- The translated base of an image, which shares presence bit 0. -/
def imageTranslated (img : List Byte) : Option Addr :=
  if bitAt img 15 0 then some (BitVec.ofNat 48 (field img 26 6)) else none

def imageReplyTimeout (img : List Byte) : Option Time :=
  if bitAt img 15 1 then some (BitVec.ofNat 32 (field img 32 4)) else none

def imageHoldLimit (img : List Byte) : Option Time :=
  if bitAt img 15 2 then some (BitVec.ofNat 32 (field img 36 4)) else none

/-- Notify: bit 4 is read only when bit 3 is set. -/
def imageNotify (img : List Byte) : Option Bool :=
  if bitAt img 15 3 then some (bitAt img 15 4) else none

/-- Whether the presence byte has bit 6 or 7 set (R186). -/
def presenceBad (img : List Byte) : Bool :=
  bitAt img 15 6 || bitAt img 15 7

/-- The entry an image encodes; none when a byte encodes none of the values its field allows (R186). -/
def entryOfImage (img : List Byte) : Option Entry :=
  match arrivalOf (byteAt img 2), kindsOf (byteAt img 3), actionOf (byteAt img 14) with
  | some arrival, some kinds, some action =>
    if presenceBad img then none
    else
      some
        { label := imageLabel img
          arrival := arrival
          sources := imageSources img
          kinds := kinds
          base := imageBase img
          size := imageSize img
          action := action
          target := imageTarget img
          translated := imageTranslated img
          replyTimeout := imageReplyTimeout img
          holdLimit := imageHoldLimit img
          notify := imageNotify img
          pinned := bitAt img 15 5 }
  | _, _, _ => none

/-- A field of a MODIFY: none when it is selected and its value lies outside the field's own range
(R87, check 1); a field that is not selected is not read. -/
def selected {α : Type} (sel : BitVec 16) (bit : Nat) (value : Option α) : Option (Option α) :=
  if sel.getLsbD bit then value.map some else some none

/-- A value, when it lies in its range. -/
def inRange {α : Type} (ok : α → Bool) (a : α) : Option α :=
  if ok a then some a else none

/-- An optional value, when it is absent or lies in its range. -/
def absentOrInRange {α : Type} (ok : α → Bool) (a : Option α) : Option (Option α) :=
  if a.all ok then some a else none

/-- The edit a MODIFY selects, read from its image; none when the selection names the label, a bit of no
field or no field, or a selected value lies outside its field's own range (R87, R186). -/
def editOfImage (sel : BitVec 16) (img : List Byte) : Option EntryEdit :=
  if sel.toNat = 0 ∨ 2 ^ 12 ≤ sel.toNat ∨ presenceBad img = true then none
  else do
    let arrival ← selected sel 0 (arrivalOf (byteAt img 2))
    let sources ← selected sel 1 (inRange (fun s => s ≠ 0) (imageSources img))
    let kinds ← selected sel 2 (kindsOf (byteAt img 3))
    let base ← selected sel 3 (inRange onGranule (imageBase img))
    let size ← selected sel 4 (inRange (fun n => n % 0x1000 = 0 && 0x1000 ≤ n) (imageSize img))
    let action ← selected sel 5 (actionOf (byteAt img 14))
    let target ← selected sel 6 (some (imageTarget img))
    let translated ← selected sel 7 (absentOrInRange onGranule (imageTranslated img))
    let replyTimeout ← selected sel 8 (absentOrInRange replyTimeoutInRange (imageReplyTimeout img))
    let holdLimit ← selected sel 9 (absentOrInRange holdLimitInRange (imageHoldLimit img))
    let notify ← selected sel 10 (some (imageNotify img))
    let pinned ← selected sel 11 (some (bitAt img 15 5))
    return { arrival, sources, kinds, base, size, action, target, translated, replyTimeout,
             holdLimit, notify, pinned }

/-- An entry with the selected fields replaced and every other field kept (R87). -/
def EntryEdit.apply (edit : EntryEdit) (e : Entry) : Entry where
  label := e.label
  arrival := edit.arrival.getD e.arrival
  sources := edit.sources.getD e.sources
  kinds := edit.kinds.getD e.kinds
  base := edit.base.getD e.base
  size := edit.size.getD e.size
  action := edit.action.getD e.action
  target := edit.target.getD e.target
  translated := edit.translated.getD e.translated
  replyTimeout := edit.replyTimeout.getD e.replyTimeout
  holdLimit := edit.holdLimit.getD e.holdLimit
  notify := edit.notify.getD e.notify
  pinned := edit.pinned.getD e.pinned

/-! ### SET_PARAM values (Table 11-6) -/

/-- A parameter with a new value that lies in its range. -/
inductive ParamValue where
  | replyTimeout (t : Time)
  | holdLimit (t : Time)
  | default (p : Port) (a : DefaultAction)
  | noticeTarget (t : NoticeTarget)
  | unit (p : Port) (n : UnitNo)
  | linkPref (p : Port) (o : Offer)
  deriving DecidableEq, Repr

/-- A default action from its two bytes (Table 11-6). -/
def defaultOf (code target : Byte) : Option DefaultAction :=
  if code = 1 then some .refuse
  else if code = 2 then some (.pass (target.setWidth 5))
  else none

/-- A notice target from its value bytes; its address is a multiple of 32 (Table 6-5). -/
def noticeTargetOf (body : List Byte) : Option NoticeTarget :=
  let address : Addr := BitVec.ofNat 48 (field body 2 6)
  let enable := byteAt body 9
  if address.toNat % 32 = 0 ∧ (enable = 0 ∨ enable = 1) then
    some ⟨address, BitVec.ofNat 5 (field body 8 1), enable = 1⟩
  else none

/-- The parameter and value of a SET_PARAM body; none when the code names no parameter or the value lies
outside its range (R123, R186). Value bytes to which Table 11-6 gives no field of the named parameter are
not read, nor is the target byte of DEFAULT REFUSE: the guide neither marks them reserved nor says that
they are ignored. DESIGN CHOICE (notes/assumptions/41.md). -/
def paramOf (body : List Byte) : Option ParamValue :=
  match (byteAt body 0).toNat with
  | 1 => (inRange replyTimeoutInRange (BitVec.ofNat 32 (field body 2 4))).map .replyTimeout
  | 2 => (inRange holdLimitInRange (BitVec.ofNat 32 (field body 2 4))).map .holdLimit
  | 3 => (defaultOf (byteAt body 2) (byteAt body 3)).map (.default .u)
  | 4 => (defaultOf (byteAt body 2) (byteAt body 3)).map (.default .d)
  | 5 => (noticeTargetOf body).map .noticeTarget
  | 6 => some (.unit .u (BitVec.ofNat 5 (field body 2 1)))
  | 7 => some (.unit .d (BitVec.ofNat 5 (field body 2 1)))
  | 8 => (offerOf (byteAt body 2) (byteAt body 3)).map (.linkPref .u)
  | 9 => (offerOf (byteAt body 2) (byteAt body 3)).map (.linkPref .d)
  | _ => none

end Sys2Proof.Machine
end

