-- ==== Sys2Proof/Machine/Ops.lean ====
section
/-! DEFINITION. The operations the blocks share: time, access to one port or dispatcher, notices, wait
marks, offers to the transmit queues, the end of a dispatch, and the moves of bridge tags. -/

namespace Sys2Proof.Machine

/-- The outcome of a command. -/
abbrev StepOutcome := Host.Outcome State Fault Refusal

/-- A refusal by a result code, with value 0. -/
def refusal (code : ResultCode) : Result := ⟨code, 0⟩

/-! ### Time -/

/-- Whether a deadline is reached, compared as the timebase wraps (spec/00_scope.md, Section 5): the
timebase lies less than half its range past it. DEDUCED (notes/assumptions/7.md). -/
def reached (now deadline : Time) : Bool :=
  (now - deadline).toNat < 2 ^ 31

/-- Whether an expiry has waited as long after its deadline as the conventions allow. -/
def atLimit (now deadline : Time) : Bool :=
  reached now deadline && Config.tolerance ≤ (now - deadline).toNat

/-! ### One port, one dispatcher -/

def State.port (s : State) (p : Port) : LinkPort := s.ports.get p

def State.setPort (s : State) (p : Port) (lp : LinkPort) : State :=
  { s with ports := s.ports.set p lp }

def State.dispatcher (s : State) (p : Port) : Dispatcher := s.dispatchers.get p

def State.setDispatcher (s : State) (p : Port) (d : Dispatcher) : State :=
  { s with dispatchers := s.dispatchers.set p d }

/-- The bridge unit of a port, UNIT_U or UNIT_D (R159). -/
def State.unit (s : State) (p : Port) : UnitNo := s.mgmt.params.unit.get p

/-- The current generation (R91). -/
def State.generation (s : State) : Gen := s.steering.generation

/-- The states in which a port is down for an offer (R147). -/
def LinkState.down : LinkState → Bool
  | .offline | .training | .faulted => true
  | .up | .retraining => false

/-! ### Notices (R131, R132) -/

/-- The Notice Unit takes a notice request: it accepts the record, or drops it and counts the loss. -/
def NoticeUnit.take (n : NoticeUnit) (now : Time) (r : NoticeReq) : NoticeUnit :=
  if n.queue.length < Config.noticeCapacity then
    { queue := n.queue ++ [⟨r, n.nextSeq, now, n.dropped⟩], nextSeq := n.nextSeq + 1, dropped := 0 }
  else { n with dropped := min (n.dropped + 1) 255 }

/-- A block raises a notice (R131). -/
def raise (r : NoticeReq) (s : State) : State :=
  { s with notices := s.notices.take s.timebase r }

/-- Raises the notices of a list in its order. -/
def raiseList (rs : List NoticeReq) (s : State) : State :=
  rs.foldl (fun s r => raise r s) s

/-- Merges the requests that several blocks send at one event: each block's own stay in its order, and
which block comes next is free (R131). `left` bounds the requests still to be taken. -/
def takeTurns {α : Type} (event : Nat) : Nat → List (List α) → List α
  | 0, _ => []
  | left + 1, blocks =>
    match blocks.filter (fun b => !b.isEmpty) with
    | [] => []
    | [b] => b
    | live =>
      let i := Config.noticeTurn event left % live.length
      match live.getD i [] with
      | [] => live.flatten
      | x :: rest => x :: takeTurns event left (live.set i rest)

/-- Raises the notices several blocks send at one event. -/
def raiseTogether (blocks : List (List NoticeReq)) (s : State) : State :=
  raiseList (takeTurns s.events (blocks.map List.length).sum blocks) { s with events := s.events + 1 }

/-- The notice of a request that a dispatcher, the Hold Queue or the Management Unit reports: its
arrival port, source unit, tag (0 for a posted write) and start address (R130). -/
def requestNotice (kind : NoticeKind) (p : Port) (req : Packet) (label : Label) (gen : Gen)
    (detail : BitVec 16) : NoticeReq :=
  { kind := kind, port := some p, unit := req.source
    tag := if req.kind = .write then 0 else req.tag
    address := req.address, label := label, generation := gen, detail := detail }

/-! ### Wait marks (R30) -/

def Trio.map {α β : Type} (f : α → β) (x : Trio α) : Trio β := ⟨f x.p, f x.n, f x.c⟩

def Duo.map {α β : Type} (f : α → β) (x : Duo α) : Duo β := ⟨f x.u, f x.d⟩

/-- A mark that records the resource is cleared. -/
def clearMark (r : Resource) (mark : List Resource) : List Resource :=
  if r ∈ mark then [] else mark

/-- The event that frees a resource clears every wait mark that records it. -/
def clearMarks (r : Resource) (s : State) : State :=
  { s with dispatchers := s.dispatchers.map fun d => { d with marks := d.marks.map (clearMark r) } }

/-- A swap, a warm reset, a change of a default action or bridge unit, or a change of a port's state
clears every wait mark. -/
def clearAllMarks (s : State) : State :=
  { s with dispatchers := s.dispatchers.map fun d => { d with marks := ⟨[], [], []⟩ } }

/-! ### Offers to the transmit queues (R147) -/

/-- The capacity of a channel's ingress queue and transmit queue (Table 8-1). -/
def Chan.capacity : Chan → Nat
  | .p | .n => 16
  | .c => 32

/-- What a transmit queue answers to an offer. -/
inductive OfferAnswer where
  | accepted
  | full
  | down
  deriving DecidableEq, Repr

/-- The answer of a port's transmit queue to an offer, as the queue stands (R147). -/
def LinkPort.answer (lp : LinkPort) (ch : Chan) : OfferAnswer :=
  if lp.state.down then .down
  else if (lp.transmit.get ch).length < ch.capacity then .accepted
  else .full

def offerAnswer (p : Port) (ch : Chan) (s : State) : OfferAnswer := (s.port p).answer ch

/-- A packet enters the tail of a transmit queue with the port's next transmit stamp (R146). -/
def LinkPort.enqueue (lp : LinkPort) (ch : Chan) (pkt : Packet) : LinkPort :=
  { lp with
    transmit := lp.transmit.set ch (lp.transmit.get ch ++ [⟨pkt, lp.nextStamp⟩])
    nextStamp := lp.nextStamp + 1 }

def enqueue (p : Port) (ch : Chan) (pkt : Packet) (s : State) : State :=
  s.setPort p ((s.port p).enqueue ch pkt)

/-- A reply the part makes up (R37): from the bridge unit of the origin port, of length 0. -/
def madeUpReply (source dest : UnitNo) (tag : Tag) (status : ReplyStatus) : Packet where
  kind := .reply
  source := source
  dest := dest
  tag := tag
  length := 0
  status := status.code
  address := 0
  payload := []

/-! ### The end of a dispatch (R25, R26) -/

/-- The head of an ingress queue leaves it: the slot is freed and an ACK becomes owed (R141, R142). -/
def LinkPort.popIngress (lp : LinkPort) (ch : Chan) : LinkPort :=
  { lp with ingress := lp.ingress.set ch (lp.ingress.get ch).tail, ackOwed := true }

/-- The dispatch of the head of a channel completes: the head leaves, its mark with it, and the pointer
moves on. -/
def finishHead (p : Port) (ch : Chan) (s : State) : State :=
  let d := s.dispatcher p
  (s.setPort p ((s.port p).popIngress ch)).setDispatcher p
    { pointer := ch.next, marks := d.marks.set ch [], work := none }

/-- The dispatch of the head of a channel is dropped: the head stays, with a wait mark for the resources
lacking (none of them where the head is to be taken again at once), and the pointer moves on. -/
def dropHead (p : Port) (ch : Chan) (lacking : List Resource) (s : State) : State :=
  let d := s.dispatcher p
  s.setDispatcher p { pointer := ch.next, marks := d.marks.set ch lacking, work := none }

/-- The dispatch goes on to another event. -/
def setWork (p : Port) (w : Work) (s : State) : State :=
  s.setDispatcher p { s.dispatcher p with work := some w }

/-- A party reports a completed dispatch; a decision under a default action is not counted (R23, R26). -/
def reportCompletion (party : Party) (dec : Decision) (s : State) : State :=
  if dec.label = 0 then s
  else
    let r : Report := ⟨dec.label, dec.generation⟩
    match party with
    | .dispatcher p =>
      { s with steering :=
        { s.steering with reports := s.steering.reports.set p (s.steering.reports.get p ++ [r]) } }
    | .hold => { s with steering := { s.steering with holdReports := s.steering.holdReports ++ [r] } }

/-! ### Bridge tags (R44 to R47) -/

/-- The drain fence tag of a port (R44). -/
def fenceTag : Port → Tag
  | .u => 126
  | .d => 127

/-- Whether a tag is a traffic tag, 0 to 125 (R44). -/
def isTrafficTag (t : Tag) : Bool := t.toNat < Config.trafficTags

/-- The entry under a tag (R44). -/
def Tracker.find (t : Tracker) (tag : Tag) : Option TrackEntry :=
  t.entries.find? fun e => e.tag = tag

def Tracker.erase (t : Tracker) (tag : Tag) : Tracker :=
  { t with entries := t.entries.filter fun e => e.tag ≠ tag }

/-- The removal of an entry that did not end by a matched reply: its tag enters the cooling set for the
entry's reply timeout (R46). -/
def Tracker.cool (t : Tracker) (now : Time) (e : TrackEntry) : Tracker :=
  { t.erase e.tag with cooling := t.cooling ++ [⟨e.tag, now + e.timeout⟩] }

/-- The removal of an entry by a matched reply: a traffic tag joins the tail of the free pool, and a
drain fence tag becomes idle (R45, R57). -/
def Tracker.release (t : Tracker) (e : TrackEntry) : Tracker :=
  { t.erase e.tag with free := if isTrafficTag e.tag then t.free ++ [e.tag] else t.free }

/-- A hand-back: the entry is removed and its tag returns to the head of the free pool (R50). -/
def Tracker.handBack (t : Tracker) (e : TrackEntry) : Tracker :=
  { t.erase e.tag with free := e.tag :: t.free }

/-- The number of entries of a generation (R66). -/
def Tracker.ofGeneration (t : Tracker) (g : Gen) : Nat :=
  (t.entries.filter fun e => e.generation = g).length

def setTracker (t : Tracker) (s : State) : State := { s with tracker := t }

end Sys2Proof.Machine
end

