-- ==== Sys2Proof/Machine/Drain.lean ====
section
/-! DEFINITION. The commit controller's part in a drain: the reports of the tracker, the fence states,
and the end of the drain (R66, R97 to R100). -/

namespace Sys2Proof.Machine

/-- The causes of a drain report (Table 3-3). -/
inductive Cause where
  | replied
  | withdrawn
  | timeout
  | linkDown
  | aborted
  deriving DecidableEq, Repr

/-- A removal from the tracker with its cause (R66). -/
structure Removal where
  entry : TrackEntry
  cause : Cause
  deriving DecidableEq, Repr

/-- The cause of the removal of a CLOSING entry whose reply is placed (Table 3-3). -/
def CloseStatus.cause : CloseStatus → Cause
  | .timeout => .timeout
  | .aborted => .aborted
  | .linkDown => .linkDown

/-- The late cause a report adds (R97). -/
def LateCauses.add (late : LateCauses) : Cause → LateCauses
  | .replied | .withdrawn => late
  | .timeout => { late with timeout := true }
  | .linkDown => { late with linkDown := true }
  | .aborted => { late with aborted := true }

/-- The state of a port's fence after the report of its drain fence (R98). -/
def Cause.fenceState : Cause → FenceState
  | .replied | .withdrawn => .answered
  | .timeout => .expired
  | .linkDown => .portDown
  | .aborted => .aborted

/-- The controller takes the cause of one drain report (R97, R98). -/
def Commit.takeReport (c : Commit) (r : Removal) : Commit :=
  { c with
    late := c.late.add r.cause
    fences := if r.entry.kind = .drainFence then c.fences.set r.entry.egress r.cause.fenceState
      else c.fences }

/-- Whether the set of late causes is empty. -/
def LateCauses.isEmpty (l : LateCauses) : Bool :=
  !l.timeout && !l.linkDown && !l.aborted && !l.skipped

/-- The outcome recorded at the end of a drain (R100). -/
def Commit.outcome (c : Commit) : DrainOutcome :=
  if c.forced then .forced else if c.late.isEmpty then .clean else .late

/-- The detail code of a COMMIT_DONE notice (Section 11.3). -/
def commitDoneNotice (gen : Gen) (outcome : DrainOutcome) : NoticeReq :=
  { kind := .commitDone, port := none, unit := 0, tag := 0, address := 0, label := 0
    generation := gen, detail := outcome.code.setWidth 16 }

/-- The drain ends when the remaining count is 0: the controller returns to IDLE, records the outcome
and the done time, and raises COMMIT_DONE (R99). -/
def settleDrain (s : State) : State × List NoticeReq :=
  if s.commit.state = .draining ∧ s.commit.remaining = 0 then
    let outcome := s.commit.outcome
    ({ s with commit := { s.commit with
        state := .idle, lastOutcome := outcome, done := s.timebase } },
      [commitDoneNotice s.commit.drainGeneration outcome])
  else (s, [])

/-- The removals the tracker reports: those of entries whose generation is not the current one (R66). -/
def reported (s : State) (rs : List Removal) : List Removal :=
  rs.filter fun r => r.entry.generation ≠ s.generation

/-- The controller takes the drain reports of the removals of one event, which the tracker has already
made; the notices it raises come back (R97 to R99). -/
def takeReports (rs : List Removal) (s : State) : State × List NoticeReq :=
  if s.commit.state = .draining ∧ reported s rs ≠ [] then
    let c := (reported s rs).foldl Commit.takeReport s.commit
    settleDrain { s with commit := { c with
      remaining := s.tracker.ofGeneration c.drainGeneration } }
  else (s, [])

/-- The removals of one event are reported, and the notices of the tracker and of the controller are
raised together (R131). -/
def reportRemovals (rs : List Removal) (notices : List NoticeReq) (s : State) : State :=
  let r := takeReports rs s
  raiseTogether [notices, r.2] r.1

end Sys2Proof.Machine
end

