-- ==== Sys2Proof/Machine/Tracker.lean ====
section
/-! DEFINITION. The Outstanding Tracker: allocations, replies, expiries, closing replies, and the events
that act on every entry at once (Chapter 3). -/

namespace Sys2Proof.Machine

/-! ### Allocations (R50) -/

/-- What the tracker answers to an allocation (R50). -/
inductive AllocAnswer where
  | empty
  | stale
  | tag (t : Tag)
  deriving DecidableEq, Repr

/-- The answer to an allocation under a decision of the given generation, tested in the order of R35. -/
def allocAnswer (gen : Gen) (s : State) : AllocAnswer :=
  match s.tracker.free with
  | [] => .empty
  | t :: _ => if gen = s.generation then .tag t else .stale

/-- A new AWAITING entry: its dispatch time is the timebase and its deadline the dispatch time plus its
reply timeout (R50). -/
def newEntry (s : State) (tag : Tag) (kind : TrackKind) (origin : Option Origin) (egress : Port)
    (dest : UnitNo) (address : Addr) (expected : BitVec 16) (label : Label) (gen : Gen)
    (timeout : Time) : TrackEntry where
  tag := tag
  state := .awaiting
  kind := kind
  origin := origin
  egress := egress
  dest := dest
  address := address
  expected := expected
  label := label
  generation := gen
  timeout := timeout
  dispatched := s.timebase
  deadline := s.timebase + timeout

/-- The tracker entry of a steered or released request (R35, R78); its expected reply length is the READ
length, or 0 (R48). -/
def steeredEntry (s : State) (tag : Tag) (p : Port) (req : Packet) (dec : Decision) (egress : Port)
    (dest : UnitNo) (address : Addr) (timeout : Time) : TrackEntry :=
  newEntry s tag (if req.kind = .read then .read else .writeAck)
    (some ⟨p, req.source, req.tag⟩) egress dest address
    (if req.kind = .read then req.length else 0) dec.label dec.generation timeout

/-- The tracker entry of a forwarded FENCE (R39). Its destination is the partner unit at the allocation,
and the packet keeps it: R39 does not say which training's IDENT gives it when the egress port retrains
between the allocation and the placement. DESIGN CHOICE (notes/assumptions/38.md). -/
def fenceEntry (s : State) (tag : Tag) (p : Port) (req : Packet) (egress : Port) : TrackEntry :=
  newEntry s tag .fence (some ⟨p, req.source, req.tag⟩) egress
    ((s.port egress).partnerUnit.getD 0) 0 0 0 s.generation s.mgmt.params.replyTimeout

/-- The drain fence entry of a port, made at a swap under the generation before it (R47). -/
def drainFenceEntry (s : State) (p : Port) (drainGen : Gen) : TrackEntry :=
  newEntry s (fenceTag p) .drainFence none p ((s.port p).partnerUnit.getD 0) 0 0 0 drainGen
    s.mgmt.params.replyTimeout

/-- The tag at the head of the free pool goes to a new entry (R45, R50). -/
def Tracker.allocate (t : Tracker) (e : TrackEntry) : Tracker :=
  { t with entries := t.entries ++ [e], free := t.free.tail }

/-- An entry is withdrawn: it goes, its tag returns to the head of the pool, and the removal is reported as
WITHDRAWN (R50, R66); the notice of a drain that this ends comes back. -/
def withdraw (e : TrackEntry) (s : State) : State × List NoticeReq :=
  takeReports [⟨e, .withdrawn⟩] (setTracker (s.tracker.handBack e) s)

/-- A hand-back (R50). A tag that joins the pool clears the wait marks for a tag (R45). -/
def handBack (e : TrackEntry) (s : State) : State :=
  let w := withdraw e s
  clearMarks .tag (raiseTogether [[], w.2] w.1)

/-! ### Replies (Section 3.3) -/

/-- Whether an entry is AWAITING or ORPHANED (R51). -/
def TrackState.isOpen : TrackState → Bool
  | .awaiting | .orphaned => true
  | .closing _ _ => false

/-- The entry a reply matches: the reply's tag is its tag, its egress port is the port of arrival, and
it is AWAITING or ORPHANED (R51). -/
def matchReply (p : Port) (reply : Packet) (t : Tracker) : Option TrackEntry :=
  match t.find reply.tag with
  | none => none
  | some e => if e.egress = p ∧ e.state.isOpen = true then some e else none

/-- The length check of a reply against its entry (R53). -/
def replyFits (e : TrackEntry) (reply : Packet) : Bool :=
  if reply.status = ReplyStatus.ok.code then reply.length = e.expected
  else knownStatus reply.status && reply.length = 0

/-- The reply the origin receives: the arriving reply rewritten (R52), or a PARTNER_ERROR in its place
(R53). -/
def restoredReply (e : TrackEntry) (o : Origin) (source : UnitNo) (reply : Packet) : Packet :=
  if replyFits e reply then
    { reply with kind := .reply, dest := o.unit, tag := o.tag, source := source }
  else madeUpReply source o.unit o.tag .partnerError

/-- The PARTNER_ERROR notice (R53, R130). -/
def partnerErrorNotice (e : TrackEntry) (reply : Packet) : NoticeReq :=
  { kind := .partnerError, port := some e.egress, unit := e.dest, tag := e.tag
    address := reply.length.setWidth 48, label := e.label, generation := e.generation
    detail := reply.status.setWidth 16 }

/-- The LATE_REPLY notice: it carries the label and generation of the tag's entry when that is CLOSING
(R58, R130). -/
def lateReplyNotice (p : Port) (reply : Packet) (s : State) : NoticeReq :=
  let closing : Option TrackEntry :=
    match s.tracker.find reply.tag with
    | none => none
    | some e => if e.state.isOpen then none else some e
  { kind := .lateReply, port := some p, unit := reply.source, tag := reply.tag
    address := reply.length.setWidth 48
    label := match closing with
      | none => 0
      | some e => e.label
    generation := match closing with
      | none => s.generation
      | some e => e.generation
    detail := reply.status.setWidth 16 }

/-- The entry a reply ended leaves the tracker; a traffic tag that joins the free pool clears the wait
marks for a tag (R45). -/
def releaseEntry (e : TrackEntry) (s : State) : State :=
  let s' := setTracker (s.tracker.release e) s
  if isTrafficTag e.tag then clearMarks .tag s' else s'

/-- A late reply is discarded with a LATE_REPLY notice (R58). -/
def discardLate (p : Port) (reply : Packet) (s : State) : State :=
  finishHead p .c (raise (lateReplyNotice p reply s) s)

/-- A reply to an ORPHANED entry is discarded; its tag goes to the pool (R56). -/
def discardOrphan (p : Port) (reply : Packet) (e : TrackEntry) (s : State) : State :=
  finishHead p .c
    (reportRemovals [⟨e, .linkDown⟩] (if replyFits e reply then [] else [partnerErrorNotice e reply])
      (releaseEntry e s))

/-- A reply to a drain fence is consumed; the fence is satisfied whatever its status (R57). -/
def consumeFenceReply (p : Port) (reply : Packet) (e : TrackEntry) (s : State) : State :=
  finishHead p .c
    (reportRemovals [⟨e, .replied⟩]
      (if reply.status = ReplyStatus.ok.code ∧ reply.length = 0 then []
       else [partnerErrorNotice e reply])
      (releaseEntry e s))

/-- The C head is presented to the tracker (R51, R29). -/
def presentReply (p : Port) (reply : Packet) (s : State) : State :=
  match matchReply p reply s.tracker with
  | none => discardLate p reply s
  | some e =>
    if e.kind = .drainFence then consumeFenceReply p reply e s
    else if e.state = .awaiting then setWork p (.take e) s
    else discardOrphan p reply e s

/-- The take of a restored reply, jointly with the origin port's C transmit queue; the tracker looks at
the entry again, and an answer that has changed since the presentation refuses the take (R54). -/
def takeReply (p : Port) (reply : Packet) (e : TrackEntry) (s : State) : State :=
  if matchReply p reply s.tracker = some e ∧ e.state = .awaiting then
    match e.origin with
    | none => dropHead p .c [] s
    | some o =>
      if offerAnswer o.port .c s = .accepted then
        finishHead p .c
          (reportRemovals [⟨e, .replied⟩]
            (if replyFits e reply then [] else [partnerErrorNotice e reply])
            (releaseEntry e (enqueue o.port .c (restoredReply e o (s.unit o.port) reply) s)))
      else dropHead p .c [.transmit o.port .c] s
  else dropHead p .c [] s

/-! ### Expiry and closing (Section 3.4) -/

/-- An entry changes state under its tag. -/
def Tracker.setState (t : Tracker) (tag : Tag) (st : TrackState) : Tracker :=
  { t with entries := t.entries.map fun e => if e.tag = tag then { e with state := st } else e }

/-- The TIMEOUT notice; its detail is 1 for a request and 2 for a drain fence (R59, R60, R130). -/
def timeoutNotice (e : TrackEntry) : NoticeReq :=
  { kind := .timeout, port := some e.egress, unit := e.dest, tag := e.tag
    address := e.address, label := e.label, generation := e.generation
    detail := if e.kind = .drainFence then 2 else 1 }

/-- The expiry of an AWAITING READ, WRITE_ACK or FENCE entry: CLOSING with TIMEOUT (R59). -/
def expireAwaiting (e : TrackEntry) (s : State) : State :=
  raise (timeoutNotice e)
    { setTracker (s.tracker.setState e.tag (.closing .timeout s.events)) s with
      events := s.events + 1 }

/-- The removal of one entry to the cooling set, with its drain report (R46, R66). -/
def coolEntry (e : TrackEntry) (cause : Cause) (notices : List NoticeReq) (s : State) : State :=
  reportRemovals [⟨e, cause⟩] notices (setTracker (s.tracker.cool s.timebase e) s)

/-- Whether a CLOSING entry `a` is older than `b`: by the event at which it entered CLOSING, and among
those of one event by a free rank (R61). -/
def olderClosing (a b : TrackEntry) : Bool :=
  match a.state, b.state with
  | .closing _ i, .closing _ j =>
    i < j || (i = j && Config.closeRank i a.tag < Config.closeRank i b.tag)
  | _, _ => false

/-- The first of the oldest members of a list. -/
def oldest {α : Type} (older : α → α → Bool) : List α → Option α
  | [] => none
  | a :: rest => some (rest.foldl (fun best b => if older b best then b else best) a)

/-- The CLOSING entries whose origin is a port (R61). -/
def Tracker.closingOf (t : Tracker) (p : Port) : List TrackEntry :=
  t.entries.filter fun e => !e.state.isOpen && (e.origin.any fun o => o.port = p)

/-- The synthesized reply of a CLOSING entry (R61). -/
def closingReply (source : UnitNo) (o : Origin) (status : CloseStatus) : Packet :=
  madeUpReply source o.unit o.tag status.reply

/-- The oldest CLOSING entry of an origin port offers its reply to that port's C transmit queue (R61). -/
def placeClosing (p : Port) (s : State) : State :=
  match oldest olderClosing (s.tracker.closingOf p) with
  | none => s
  | some e =>
    match e.state, e.origin with
    | .closing status _, some o =>
      if offerAnswer p .c s = .accepted then
        coolEntry e status.cause [] (enqueue p .c (closingReply (s.unit p) o status) s)
      else s
    | _, _ => s

/-- The end of a cooling period: a traffic tag joins the tail of the free pool, and a drain fence tag
becomes idle (R46). -/
def endCooling (tag : Tag) (s : State) : State :=
  let t := s.tracker
  let t' := { t with
    cooling := t.cooling.filter fun m => m.tag ≠ tag
    free := if isTrafficTag tag then t.free ++ [tag] else t.free }
  if isTrafficTag tag then clearMarks .tag (setTracker t' s) else setTracker t' s

/-! ### Events that act on every entry (Sections 3.5 to 3.7) -/

/-- What an event makes of an entry: it stays, perhaps changed, or it is removed to the cooling set and
reported with a cause. -/
inductive Fate where
  | stay (e : TrackEntry)
  | cool (cause : Cause)
  deriving DecidableEq, Repr

/-- The removals an event makes. -/
def removals (fate : TrackEntry → Fate) (entries : List TrackEntry) : List Removal :=
  entries.filterMap fun e =>
    match fate e with
    | .stay _ => none
    | .cool cause => some ⟨e, cause⟩

/-- The tracker acts on every entry as one event; every removed entry's tag cools for the entry's reply
timeout (R46). -/
def Tracker.settle (t : Tracker) (now : Time) (fate : TrackEntry → Fate) : Tracker :=
  { t with
    entries := t.entries.filterMap fun e =>
      match fate e with
      | .stay e' => some e'
      | .cool _ => none
    cooling := t.cooling ++
      (removals fate t.entries).map fun r => ⟨r.entry.tag, now + r.entry.timeout⟩ }

/-- An entry goes to CLOSING at the numbered event. -/
def TrackEntry.close (e : TrackEntry) (status : CloseStatus) (event : Nat) : TrackEntry :=
  { e with state := .closing status event }

/-- Whether an entry's origin is a port. -/
def TrackEntry.originIs (e : TrackEntry) (p : Port) : Bool :=
  e.origin.any fun o => o.port = p

/-- The port-down of port `p` at an entry (R62, R63); `down` says which ports are down. A CLOSING entry
whose origin is `p` is removed even where its egress is `p` too (R49; notes/assumptions/12.md). -/
def portDownFate (p : Port) (down : Port → Bool) (event : Nat) (e : TrackEntry) : Fate :=
  match e.state with
  | .awaiting =>
    if e.egress = p then
      match e.origin with
      | none => .cool .linkDown
      | some o => if o.port = p ∨ down o.port = true then .cool .linkDown
        else .stay (e.close .linkDown event)
    else if e.originIs p then .stay { e with state := .orphaned }
    else .stay e
  | .orphaned => if e.egress = p then .cool .linkDown else .stay e
  | .closing _ _ => if e.originIs p then .cool .linkDown else .stay e

/-- FORCE_DRAIN at an entry: only entries of the drain generation are acted on (R67). -/
def forceFate (drainGen : Gen) (event : Nat) (e : TrackEntry) : Fate :=
  if e.generation = drainGen then
    match e.state with
    | .awaiting => if e.kind = .drainFence then .cool .aborted else .stay (e.close .aborted event)
    | .orphaned => .cool .aborted
    | .closing _ _ => .stay e
  else .stay e

/-- The warm reset at an entry; an entry that remains takes the new generation (R68). -/
def warmFate (newGen : Gen) (event : Nat) (e : TrackEntry) : Fate :=
  match e.state with
  | .awaiting =>
    if e.kind = .drainFence then .cool .aborted
    else .stay { e.close .aborted event with generation := newGen }
  | .orphaned => .cool .aborted
  | .closing _ _ => .stay { e with generation := newGen }

/-- The tracker's entries in AWAITING, ORPHANED and CLOSING (R49). -/
def Tracker.counts (t : Tracker) : Nat × Nat × Nat :=
  ((t.entries.filter fun e => e.state = .awaiting).length,
   (t.entries.filter fun e => e.state = .orphaned).length,
   (t.entries.filter fun e => !e.state.isOpen).length)

end Sys2Proof.Machine
end

