-- ==== Sys2Proof/Machine/HoldQueue.lean ====
section
/-! DEFINITION. The Hold Queue but for releases: entry, expiry, answers, DISCARD and the events that act on
every slot (Chapter 4). -/

namespace Sys2Proof.Machine

def setHold (h : HoldQueue) (s : State) : State := { s with hold := h }

/-! ### Hold ids and entry (R72, R73) -/

/-- Whether an occupied slot carries an id. -/
def HoldQueue.carries (h : HoldQueue) (id : HoldId) : Bool :=
  h.slots.any fun slot => slot.id = id

/-- The id `k` places after the last one, counting 1, 2, … 255, 1, … (R72). -/
def HoldQueue.idAfter (h : HoldQueue) (k : Nat) : HoldId :=
  BitVec.ofNat 8 ((h.lastId.toNat + k) % 255 + 1)

/-- The first number after the last assigned id that no occupied slot carries (R72). -/
def HoldQueue.nextId (h : HoldQueue) : HoldId :=
  (((List.range 255).map h.idAfter).find? fun id => !h.carries id).getD (h.idAfter 0)

/-- The record filled as a request enters the Hold Queue (R71, R73). -/
def newHoldSlot (s : State) (p : Port) (req : Packet) (dec : Decision) (limit : Time) : HoldSlot where
  id := s.hold.nextId
  state := .held (s.timebase + limit)
  origin := p
  request := req
  label := dec.label
  generation := dec.generation
  entered := s.timebase
  limit := limit

/-- A request takes a free slot; its id becomes the last assigned one. -/
def HoldQueue.enter (h : HoldQueue) (slot : HoldSlot) : HoldQueue :=
  { h with slots := h.slots ++ [slot], lastId := slot.id }

/-- The notices of a hold record: HELD, HOLD_EXPIRED and HOLD_DROPPED (R130). -/
def holdNotice (kind : NoticeKind) (h : HoldSlot) : NoticeReq :=
  requestNotice kind h.origin h.request h.label h.generation (h.id.setWidth 16)

/-! ### Leaving a slot (R74 to R76) -/

/-- Whether a slot is HELD. -/
def HoldState.isHeld : HoldState → Bool
  | .held _ => true
  | .answering _ _ => false

/-- The HELD record of an id. -/
def HoldQueue.findHeld (h : HoldQueue) (id : HoldId) : Option HoldSlot :=
  h.slots.find? fun slot => slot.id = id && slot.state.isHeld

/-- Whether a record stands in its slot still HELD, as it was when a RELEASE was taken for it (R77). -/
def HoldQueue.stillHeld (h : HoldQueue) (record : HoldSlot) : Bool :=
  record.state.isHeld && decide (record ∈ h.slots)

def HoldQueue.erase (h : HoldQueue) (id : HoldId) : HoldQueue :=
  { h with slots := h.slots.filter fun slot => slot.id ≠ id }

/-- A slot becomes ANSWERING at the numbered event. -/
def HoldQueue.answer (h : HoldQueue) (id : HoldId) (status : AnswerStatus) (event : Nat) : HoldQueue :=
  { h with slots := h.slots.map fun slot =>
      if slot.id = id then { slot with state := .answering status event } else slot }

/-- A slot is freed; the wait marks for a Hold Queue slot are cleared (R73). -/
def freeSlot (id : HoldId) (s : State) : State :=
  clearMarks .holdSlot (setHold (s.hold.erase id) s)

/-- A held request is refused: a posted write is discarded and its slot freed, and a non-posted
request's slot becomes ANSWERING (R74, R76, R77, R78). -/
def refuseHeld (h : HoldSlot) (status : AnswerStatus) (s : State) : State :=
  if h.request.kind = .write then freeSlot h.id s
  else { setHold (s.hold.answer h.id status s.events) s with events := s.events + 1 }

/-- Whether a record is in release steps, which hold off its expiry (R78). -/
def HoldQueue.inSteps (h : HoldQueue) (id : HoldId) : Bool :=
  h.release.any fun r => r.record.id = id && r.phase ≠ .waiting

/-- The expiry of a HELD record (R74). -/
def expireHeld (h : HoldSlot) (s : State) : State :=
  refuseHeld h .refused (raise (holdNotice .holdExpired h) s)

/-- Whether an ANSWERING slot `a` is older than `b`: by the event that made it ANSWERING, and among
those of one event by a free rank (R75). -/
def olderAnswer (a b : HoldSlot) : Bool :=
  match a.state, b.state with
  | .answering _ i, .answering _ j =>
    i < j || (i = j && Config.answerRank i a.id < Config.answerRank i b.id)
  | _, _ => false

/-- The ANSWERING slots whose origin is a port (R75). -/
def HoldQueue.answersOf (h : HoldQueue) (p : Port) : List HoldSlot :=
  h.slots.filter fun slot => !slot.state.isHeld && slot.origin = p

/-- The oldest ANSWERING slot of an origin port offers its reply to that port's C transmit queue
(R75). -/
def placeAnswer (p : Port) (s : State) : State :=
  match oldest olderAnswer (s.hold.answersOf p) with
  | none => s
  | some h =>
    match h.state with
    | .held _ => s
    | .answering status _ =>
      if offerAnswer p .c s = .accepted then
        freeSlot h.id
          (enqueue p .c (madeUpReply (s.unit p) h.request.source h.request.tag status.reply) s)
      else s

/-! ### Port down and warm reset (R81, R82) -/

/-- The slots whose origin is a downed port are freed; the notices for the held ones come back in list
order (R81). -/
def holdPortDown (p : Port) (s : State) : State × List NoticeReq :=
  let gone := s.hold.slots.filter fun slot => slot.origin = p
  let s' := setHold { s.hold with slots := s.hold.slots.filter fun slot => slot.origin ≠ p } s
  (if gone = [] then s' else clearMarks .holdSlot s',
   (gone.filter fun slot => slot.state.isHeld).map (holdNotice .holdDropped))

/-- A slot after the warm reset: a held posted write is discarded, and a held non-posted request answers
ABORTED (R82). -/
def warmSlot (event : Nat) (slot : HoldSlot) : Option HoldSlot :=
  match slot.state with
  | .answering _ _ => some slot
  | .held _ =>
    if slot.request.kind = .write then none
    else some { slot with state := .answering .aborted event }

/-- The Hold Queue's warm reset; the notices for the held slots come back in list order (R82). -/
def holdWarmReset (s : State) : State × List NoticeReq :=
  ({ setHold { s.hold with slots := s.hold.slots.filterMap (warmSlot s.events) } s with
      events := s.events + 1 },
   (s.hold.slots.filter fun slot => slot.state.isHeld).map (holdNotice .holdDropped))

end Sys2Proof.Machine
end

