-- ==== Sys2Proof/Machine/CommandQueue.lean ====
section
/-! DEFINITION. The command queue: what the access at its head is (R110, R114), its reply, and the end of a
command's execution (R116, R117, R120, R121). -/

namespace Sys2Proof.Machine

def setMgmt (m : Management) (s : State) : State := { s with mgmt := m }

/-! ### The head -/

/-- The areas of the aperture map that serve area reads (Table 6-1). -/
inductive Area where
  | status
  | active
  | staging
  | hold
  deriving DecidableEq, Repr

/-- The first offset of an area. -/
def Area.start : Area → Nat
  | .status => 0x1000
  | .active => 0x2000
  | .staging => 0x3000
  | .hold => 0x5000

/-- The last offset of an area. -/
def Area.last : Area → Nat
  | .status => 0x107F
  | .active => 0x2FFF
  | .staging => 0x3FFF
  | .hold => 0x51FF

/-- Whether the offsets [o, o + n − 1] lie in [first, last]. -/
def liesIn (o n first last : Nat) : Bool :=
  first ≤ o && o + n - 1 ≤ last

/-- What an access is once it begins execution (R110, R114). -/
inductive Access where
  /-- From a unit outside the manager set. -/
  | notManager
  /-- A command write; its payload is the command block. -/
  | command (block : List Byte)
  /-- An area read of `n` bytes at offset `o`. -/
  | read (area : Area) (o n : Nat)
  /-- A notice pop. -/
  | pop
  /-- Anything else: outside the map. -/
  | unsupported
  deriving DecidableEq, Repr

/-- The area that serves a READ of `n` bytes at offset `o`, if one does. -/
def areaOf (o n : Nat) : Option Area :=
  [Area.status, .active, .staging, .hold].find? fun a => liesIn o n a.start a.last

/-- The access an access slot is, by the manager check and then Table 6-1 (R110, R114). -/
def classify (managers : UnitSet) (slot : CommandSlot) : Access :=
  let n := slot.length.toNat
  if UnitSet.holds managers slot.source = false then .notManager
  else if slot.kind = .writeAck then
    if liesIn slot.offset n 0x0000 0x00FF then .command slot.payload else .unsupported
  else if slot.kind = .read then
    if slot.offset = 0x4000 ∧ n = 32 then .pop
    else
      match areaOf slot.offset n with
      | some area => .read area slot.offset n
      | none => .unsupported
  else .unsupported

/-- The head of the command queue when its execution may begin: it is WAITING, and no release is still
executing (R77, R116). -/
def waitingHead (s : State) : Option CommandSlot :=
  if s.hold.release.isSome then none
  else
    match s.mgmt.queue with
    | [] => none
    | slot :: _ => if slot.state = .waiting then some slot else none

/-- What the head is when its execution may begin. -/
def headAccess (s : State) : Option Access :=
  (waitingHead s).map (classify s.mgmt.managers)

/-- The command the head carries, when its execution may begin and it is a command write; the inner
option is none when the block is MALFORMED (R119). -/
def headCommand (s : State) : Option (Option (CommandCode × List Byte)) :=
  match headAccess s with
  | some (.command block) => some (parseBlock block)
  | _ => none

/-! ### The end of an execution -/

/-- The state of the head slot changes. -/
def setHeadState (st : SlotState) (s : State) : State :=
  match s.mgmt.queue with
  | [] => s
  | slot :: rest => setMgmt { s.mgmt with queue := { slot with state := st } :: rest } s

/-- Whether a result lets a batch go on, and carries failure index 0 (R120, R121). -/
def ResultCode.ok (c : ResultCode) : Bool := c = .done || c = .accepted

/-- The reply of an executed command write (R117, R120). -/
def commandReply (r : Result) (index : Nat) : AccessReply :=
  ⟨.ok, resultBytes r index, false⟩

/-- The head goes to ANSWER_READY with the result of its command write. -/
def answerHead (r : Result) (index : Nat) (s : State) : State :=
  setHeadState (.answerReady (commandReply r index)) s

/-- The failure index of a single command (R120). -/
def singleIndex (r : Result) : Nat := if r.code.ok then 0 else 1

/-- A RELEASE ends: its result is delivered to the head that carries it, a single command or a batch
member, unless a port-down of U has emptied the command queue since (R77, R79, R121). -/
def endRelease (r : Result) (s : State) : State :=
  let delivers := s.hold.release.any (·.delivers)
  let s := setHold { s.hold with release := none } s
  if delivers then
    match s.mgmt.queue with
    | [] => s
    | slot :: _ =>
      match slot.state with
      | .executing => answerHead r (singleIndex r) s
      | .executingBatch run =>
        if r.code.ok then
          if run.todo = [] then answerHead r 0 s
          else setHeadState (.executingBatch { run with index := run.index + 1, last := r }) s
        else answerHead r run.index s
      | _ => s
  else s

end Sys2Proof.Machine
end

