-- ==== Sys2Proof/Machine/Link.lean ====
section
/-! DEFINITION. The link ports: state changes and port down, training, numbering, acknowledgement and replay
(Chapter 10), and the transmit arbiter (Sections 8.2 to 8.4). -/

namespace Sys2Proof.Machine

/-! ### Changes of link state (R170) -/

/-- The LINK_STATE notice of a port entering a state, its tag the training attempt count given (R170). -/
def linkNotice (p : Port) (st : LinkState) (count : Nat) (s : State) : NoticeReq :=
  { kind := .linkState, port := some p, unit := (s.port p).partnerUnit.getD 0
    tag := BitVec.ofNat 7 count, address := 0, label := 0, generation := s.generation
    detail := st.code.setWidth 16 }

/-- A training attempt as it begins: phase SPEED, a deadline of 2,000 µs, and the offer LINK_PREF gives
(R171, R172). -/
def newAttempt (p : Port) (mode : Mode) (s : State) : Attempt where
  phase := .speed
  deadline := s.timebase + Config.attemptTime
  mode := mode
  offer := s.mgmt.params.linkPref.get p
  partner := none
  agreed := none
  unit := s.unit p
  identSent := false
  identTaken := false

/-- A port begins an attempt; its SPEED is due (R171). TRAINs still due from before are dropped: a READY
owed while UP (R174) and the TRAINs of a failed attempt. The guide does not say what becomes of them.
DESIGN CHOICE (notes/assumptions/40.md). -/
def LinkPort.begin (lp : LinkPort) (a : Attempt) : LinkPort :=
  { lp with attempt := some a, owedTrains := [.speed] }

/-- A port enters TRAINING from OFFLINE or FAULTED: its count is cleared, its numbering starts afresh, and
a NEW attempt begins (R169, R171, R182, R125). -/
def enterTraining (p : Port) (s : State) : State :=
  let lp := s.port p
  let s' := s.setPort p
    (LinkPort.begin
      { lp with state := .training, attempts := 0, txNext := 0, rxNext := 0, holdOff := none }
      (newAttempt p .new s))
  clearAllMarks (raise (linkNotice p .training 0 s) s')

/-- A port that is UP enters RETRAINING: it keeps its queues, replay store, numbering, credit and
pointer, abandons its replay, clears its round count and acknowledgement deadline, and begins a RESUME
attempt (R180). Its receive mode stays until the entry to UP, which R180 does not say. DESIGN CHOICE
(notes/assumptions/44.md). -/
def enterRetraining (p : Port) (s : State) : State :=
  let lp := s.port p
  let s' := s.setPort p
    (LinkPort.begin
      { lp with
        state := .retraining, rounds := 0, ackDeadline := none, replayLeft := [], replayReqs := [] }
      (newAttempt p .resume s))
  clearAllMarks (raise (linkNotice p .retraining 0 s) s')

/-- The acknowledgement deadline of a port, present while its replay store is not empty (R176). -/
def ackDeadlineFor (now : Time) (store : List SentPacket) : Option Time :=
  if store = [] then none else some (now + Config.ackTime)

/-- A port as an attempt succeeds (R174). In RESUME mode a replay of what the store still holds begins. -/
def LinkPort.succeed (lp : LinkPort) (a : Attempt) (now : Time) : LinkPort :=
  { lp with
    state := .up
    attempts := 0
    attempt := none
    owedTrains := lp.owedTrains.filter fun ph => ph = .ready
    negotiated := a.agreed
    rxMode := .inOrder
    rounds := 0
    replayLeft := if a.mode = .resume then lp.replayStore.map (·.seq) else []
    ackDeadline := if a.mode = .resume then ackDeadlineFor now lp.replayStore else none }

/-- The attempt of a port succeeds and the port enters UP (R174). -/
def enterUp (p : Port) (a : Attempt) (s : State) : State :=
  let lp := s.port p
  clearAllMarks
    (raise (linkNotice p .up lp.attempts s) (s.setPort p (lp.succeed a s.timebase)))

/-- A port in FAULTED: the count reads 3, no attempt is in progress, and port U's hold-off runs (R175,
R182). -/
def LinkPort.fault (lp : LinkPort) (p : Port) (now : Time) : LinkPort :=
  { lp with
    state := .faulted
    attempts := 3
    attempt := none
    owedTrains := []
    negotiated := none
    holdOff := if p = .u then some (now + Config.holdOffTime) else none }

/-- What a port-down takes from its port: the replay store, the acknowledgement and replay state, the
queues, the partner's credit and the arbiter's place (R183, R153, R145). -/
def LinkPort.goDown (lp : LinkPort) : LinkPort :=
  { lp with
    replayStore := []
    replayLeft := []
    rounds := 0
    rxMode := .inOrder
    ackOwed := false
    replayReqs := []
    ackDeadline := none
    credit := ⟨0, 0, 0⟩
    acked := none
    ingress := ⟨[], [], []⟩
    transmit := ⟨[], [], []⟩
    fenceSlot := none
    pointer := .p }

/-- The dispatcher of a downed port: its dispatch ends with its head and its pointer returns to P
(R42). -/
def dispatcherPortDown (p : Port) (s : State) : State :=
  s.setDispatcher p Dispatcher.cold

/-- A release in steps whose origin port goes down stops: a tag it has taken and not placed is handed
back, and it returns ORIGIN_DOWN (R79). The COMMIT_DONE of a drain that the hand-back ends comes back, to
join the notices of the port-down. That the hand-back comes before the tracker's own part is DEDUCED
(notes/assumptions/27.md). -/
def releasePortDown (p : Port) (s : State) : State × List NoticeReq :=
  match s.hold.release with
  | none => (s, [])
  | some r =>
    if r.record.origin = p ∧ r.phase ≠ .waiting then
      let t :=
        match r.phase with
        | .place _ e => if s.tracker.find e.tag = some e then withdraw e s else (s, [])
        | _ => (s, [])
      (endRelease (refusal .originDown) t.1, t.2)
    else (s, [])

/-- The Management Unit at the port-down of U: the command queue is emptied without replies, a pending
move is discarded, and a release still executing has nowhere to deliver its result (R118, R109, R79). -/
def managementPortDown (p : Port) (s : State) : State :=
  if p = .u then
    setHold { s.hold with release := s.hold.release.map fun r => { r with delivers := false } }
      (setMgmt { s.mgmt with queue := [], pendingBase := none } s)
  else s

/-- The tracker and the commit controller at a port-down (R62, R63, R101). -/
def trackerPortDown (p : Port) (s : State) : State × List NoticeReq :=
  let fate := portDownFate p (fun q => (s.port q).state.down) s.events
  let rs := removals fate s.tracker.entries
  takeReports rs
    { setTracker (s.tracker.settle s.timebase fate) s with events := s.events + 1 }

/-- A port-down: the port is FAULTED and every block takes the event (R183). The notices of the port, the
commit controller and the Hold Queue are merged in any order (R131; notes/assumptions/5.md). -/
def portDown (p : Port) (s : State) : State :=
  let notice := linkNotice p .faulted 3 s
  let s := s.setPort p (((s.port p).goDown).fault p s.timebase)
  let s := dispatcherPortDown p s
  let s := managementPortDown p s
  let r := releasePortDown p s
  let t := trackerPortDown p r.1
  let h := holdPortDown p t.1
  clearAllMarks (raiseTogether [[notice], r.2 ++ t.2, h.2] h.1)

/-- A port enters FAULTED: from RETRAINING this is a port-down, from TRAINING it is not (R175). -/
def enterFaulted (p : Port) (s : State) : State :=
  if (s.port p).state = .retraining then portDown p s
  else
    clearAllMarks
      (raise (linkNotice p .faulted 3 s) (s.setPort p ((s.port p).fault p s.timebase)))

/-- A training attempt fails: a new one begins in the same state, or the third failure brings the port
to FAULTED (R175). -/
def failAttempt (p : Port) (a : Attempt) (s : State) : State :=
  let lp := s.port p
  if lp.attempts + 1 < 3 then
    s.setPort p (LinkPort.begin { lp with attempts := lp.attempts + 1 } (newAttempt p a.mode s))
  else enterFaulted p s

/-! ### Acknowledgement (R144, R167) -/

/-- The free slots of a channel's ingress queue (R141). -/
def LinkPort.freeSlots (lp : LinkPort) (ch : Chan) : Nat :=
  ch.capacity - (lp.ingress.get ch).length

/-- The free ingress slots of the three channels. -/
def LinkPort.allFree (lp : LinkPort) : Trio Nat :=
  ⟨lp.freeSlots .p, lp.freeSlots .n, lp.freeSlots .c⟩

/-- The last sequence number the port has accepted (R142). -/
def LinkPort.lastAccepted (lp : LinkPort) : SeqNo := lp.rxNext - 1

/-- Whether a sequence number lies from the held S up to the last one sent, counting with the 12-bit
wrap: an ACK below it is old, one above it names a packet not sent (R144, R167, R173). -/
def LinkPort.inWindow (lp : LinkPort) (seq : SeqNo) : Bool :=
  match lp.acked with
  | none => false
  | some held => (seq - held).toNat ≤ (lp.txNext - 1 - held).toNat

/-- Whether an acknowledgement of `seq` over a held number covers a packet. -/
def covers (held seq : SeqNo) (pkt : SentPacket) : Bool :=
  (pkt.seq - (held + 1)).toNat < (seq - held).toNat

/-- An ACK within the window is applied: it removes the packets it covers, and its credit and number
replace those held; an advance clears the round count (R144, R178). -/
def LinkPort.applyAck (lp : LinkPort) (held seq : SeqNo) (credit : Trio Nat) : LinkPort :=
  let store := lp.replayStore.filter fun pkt => !covers held seq pkt
  { lp with
    replayStore := store
    replayLeft := lp.replayLeft.filter fun q => store.any fun pkt => pkt.seq = q
    rounds := if seq = held then lp.rounds else 0
    credit := credit
    acked := some seq }

/-- An ACK taken while UP (R144, R176). -/
def takeAck (p : Port) (seq : SeqNo) (credit : Trio Nat) (s : State) : State :=
  let lp := s.port p
  match lp.acked with
  | none => s
  | some held =>
    if lp.inWindow seq then
      let lp' := lp.applyAck held seq credit
      s.setPort p { lp' with ackDeadline := ackDeadlineFor s.timebase lp'.replayStore }
    else s

/-! ### Reception (R177) -/

/-- The channel of a packet kind (R140). -/
def PacketKind.chan : PacketKind → Chan
  | .write => .p
  | .reply => .c
  | .writeAck | .read | .fence | .other _ => .n

/-- A REPLAY_REQ naming the last number accepted becomes due, behind those due already, and the mode
AWAITING_REPLAY: each failing packet sends a REPLAY_REQ of its own (R177). -/
def LinkPort.requestReplay (lp : LinkPort) : LinkPort :=
  { lp with replayReqs := lp.replayReqs ++ [lp.lastAccepted], rxMode := .awaitingReplay }

/-- A packet is accepted: it enters its ingress queue with an arrival stamp (R140, R177). -/
def LinkPort.accept (lp : LinkPort) (pkt : Packet) : LinkPort :=
  let ch := pkt.kind.chan
  { lp with
    ingress := lp.ingress.set ch (lp.ingress.get ch ++ [⟨pkt, lp.nextArrival, false⟩])
    nextArrival := lp.nextArrival + 1
    rxNext := lp.rxNext + 1
    rxMode := .inOrder
    ackOwed := true }

/-- Whether a sequence number is among the 64 before the expected one (R177). -/
def LinkPort.isDuplicate (lp : LinkPort) (seq : SeqNo) : Bool :=
  1 ≤ (lp.rxNext - seq).toNat && (lp.rxNext - seq).toNat ≤ 64

/-- A packet of the three channels with a good check code is taken while UP (R177, steps 2 to 4). -/
def LinkPort.receive (lp : LinkPort) (pkt : Packet) (seq : SeqNo) : LinkPort :=
  if lp.isDuplicate seq then { lp with ackOwed := true }
  else if seq ≠ lp.rxNext then
    if lp.rxMode = .inOrder then lp.requestReplay else lp
  else if lp.freeSlots pkt.kind.chan = 0 then lp.requestReplay
  else lp.accept pkt

/-- A packet of the three channels is taken while UP. -/
def takeTraffic (p : Port) (pkt : Packet) (seq : SeqNo) (s : State) : State :=
  s.setPort p ((s.port p).receive pkt seq)

/-- A packet that fails its check code is taken while UP (R177, step 1). -/
def takeDamaged (p : Port) (s : State) : State :=
  s.setPort p (s.port p).requestReplay

/-- The attempt of a port that is in READY (R174). -/
def readyAttempt (p : Port) (s : State) : Option Attempt :=
  (s.port p).attempt.filter fun a => a.phase = .ready

/-- A good packet of the three channels arrives: while UP it is taken, in READY it makes the attempt
succeed first, and otherwise it is discarded (R171, R174, R177). -/
def arriveTraffic (p : Port) (pkt : Packet) (seq : SeqNo) (s : State) : State :=
  if (s.port p).state = .up then takeTraffic p pkt seq s
  else
    match readyAttempt p s with
    | some a => takeTraffic p pkt seq (enterUp p a s)
    | none => s

/-- A good ACK arrives: as for a packet of the three channels (R144, R171, R174). -/
def arriveAck (p : Port) (seq : SeqNo) (credit : Trio Nat) (s : State) : State :=
  if (s.port p).state = .up then takeAck p seq credit s
  else
    match readyAttempt p s with
    | some a => takeAck p seq credit (enterUp p a s)
    | none => s

/-! ### TRAINs (R171 to R174) -/

/-- The attempt of a port changes, and TRAINs fall due behind those due already, an order the guide does
not give. DESIGN CHOICE (notes/assumptions/46.md). -/
def LinkPort.train (lp : LinkPort) (a : Attempt) (due : List Phase) : LinkPort :=
  { lp with attempt := some a, owedTrains := lp.owedTrains ++ due }

/-- The attempt after the IDENT exchange advances: once the port has both sent its own IDENT and taken the
partner's, the phase becomes READY and its READY is due (R173). -/
def LinkPort.advance (lp : LinkPort) (a : Attempt) : LinkPort :=
  if a.phase = .ident ∧ a.identSent = true ∧ a.identTaken = true then
    lp.train { a with phase := .ready } [.ready]
  else lp.train a []

/-- The agreed width and rate of two offers: the smaller lane count and the smaller rate (R172). -/
def Offer.agree (a b : Offer) : Offer where
  lanes := if a.lanes.count ≤ b.lanes.count then a.lanes else b.lanes
  rate := if a.rate.gbit ≤ b.rate.gbit then a.rate else b.rate

/-- A SPEED is taken during training. In the SPEED phase a mismatch fails the attempt, and otherwise a
width and rate are agreed and the phase becomes IDENT; later the same offer again prompts the port's own
SPEED once more, and another fails the attempt (R171, R172; notes/assumptions/14.md). -/
def trainSpeed (p : Port) (a : Attempt) (mode lanes rate : Byte) (s : State) : State :=
  match offerOf lanes rate with
  | none => failAttempt p a s
  | some offer =>
    if mode ≠ a.mode.code then failAttempt p a s
    else if a.phase = .speed then
      s.setPort p ((s.port p).train
        { a with
          phase := .ident, partner := some offer, agreed := some (a.offer.agree offer)
          unit := s.unit p }
        [.ident])
    else if a.partner = some offer then s.setPort p ((s.port p).train a [.speed])
    else failAttempt p a s

/-- A SPEED arrives (R172, R180). -/
def arriveSpeed (p : Port) (mode lanes rate : Byte) (s : State) : State :=
  if (s.port p).state = .up then enterRetraining p s
  else
    match (s.port p).attempt with
    | some a => trainSpeed p a mode lanes rate s
    | none => s

/-- The partner's IDENT is taken in the IDENT phase (R173). -/
def takeIdent (p : Port) (a : Attempt) (unit : UnitNo) (free : Trio Nat) (last : SeqNo) (s : State) :
    State :=
  let lp := { s.port p with partnerUnit := some unit }
  let a' := { a with identTaken := true }
  match a.mode with
  | .new => s.setPort p (LinkPort.advance { lp with acked := some 4095, credit := free } a')
  | .resume =>
    match lp.acked with
    | none => failAttempt p a (s.setPort p lp)
    | some held =>
      if lp.inWindow last then s.setPort p ((lp.applyAck held last free).advance a')
      else failAttempt p a (s.setPort p lp)

/-- An IDENT arrives: it is taken in IDENT, answered with the port's own IDENT in READY, and discarded in
SPEED and while UP (R171, R173, R174). -/
def arriveIdent (p : Port) (unit : UnitNo) (free : Trio Nat) (last : SeqNo) (s : State) : State :=
  match (s.port p).attempt with
  | none => s
  | some a =>
    match a.phase with
    | .speed => s
    | .ident => takeIdent p a unit free last s
    | .ready => s.setPort p ((s.port p).train a [.ident])

/-- A READY arrives: it makes the attempt succeed in READY, and while UP it makes the port send its own
READY once more (R174). -/
def arriveReady (p : Port) (s : State) : State :=
  if (s.port p).state = .up then
    s.setPort p { s.port p with owedTrains := (s.port p).owedTrains ++ [.ready] }
  else
    match readyAttempt p s with
    | some a => enterUp p a s
    | none => s

/-- Bytes are put on the transmit lanes with their check code (R185). -/
def LinkPort.send (lp : LinkPort) (body : List Byte) : LinkPort :=
  { lp with wire := some (sealed body) }

/-- The TRAIN of a phase is sent during an attempt. The first IDENT of an attempt takes the place of an
owed ACK (R173, R174; notes/assumptions/13.md). -/
def LinkPort.sendPhase (lp : LinkPort) (a : Attempt) : Phase → LinkPort
  | .speed => lp.send (speedBytes a.mode a.offer)
  | .ident =>
    let sent := lp.send (identBytes a.unit lp.allFree lp.lastAccepted)
    LinkPort.advance { sent with ackOwed := a.identSent && lp.ackOwed } { a with identSent := true }
  | .ready => lp.send readyBytes

/-- A transmission opportunity used for a TRAIN: one that is due, or the TRAIN of the current phase again
(R171, R174). Of several that are due, the one that fell due first goes; the guide gives them no order.
DESIGN CHOICE (notes/assumptions/46.md). -/
def LinkPort.sendTrain (lp : LinkPort) : LinkPort :=
  match lp.attempt, lp.owedTrains with
  | some a, ph :: rest => { lp with owedTrains := rest }.sendPhase a ph
  | some a, [] => lp.sendPhase a a.phase
  | none, .ready :: rest => { lp with owedTrains := rest }.send readyBytes
  | none, _ => lp

/-! ### Replay (R178) -/

/-- Whether a sequence number names a packet not yet sent, counting with the 12-bit wrap.
DEDUCED (notes/assumptions/15.md). -/
def LinkPort.notSent (lp : LinkPort) (seq : SeqNo) : Bool :=
  2048 ≤ (lp.txNext - 1 - seq).toNat

/-- The packets of the replay store after a sequence number, or all of them when the packet after it has
already left the store (R167, R178). -/
def LinkPort.heldAfter (lp : LinkPort) (seq : SeqNo) : List SentPacket :=
  lp.replayStore.filter fun pkt => (lp.txNext - 1 - pkt.seq).toNat < (lp.txNext - 1 - seq).toNat

/-- A REPLAY_REQ taken while UP (R178). One that names a packet not sent is discarded, and a replay in
progress goes on; R178 also says that a REPLAY_REQ taken during a replay ends it. DESIGN CHOICE
(notes/assumptions/43.md). -/
def takeReplayReq (p : Port) (seq : SeqNo) (s : State) : State :=
  let lp := s.port p
  if lp.notSent seq then s
  else if lp.heldAfter seq = [] then s.setPort p { lp with replayLeft := [] }
  else if lp.rounds = 4 then enterRetraining p s
  else
    s.setPort p { lp with rounds := lp.rounds + 1, replayLeft := (lp.heldAfter seq).map (·.seq) }

/-- A REPLAY_REQ arrives; in training it is discarded (R171, R178). -/
def arriveReplayReq (p : Port) (seq : SeqNo) (s : State) : State :=
  if (s.port p).state = .up then takeReplayReq p seq s else s

/-! ### Transmission (R149 to R151) -/

/-- Whether something goes ahead of the replay and the three channels: an owed ACK, a REPLAY_REQ or a
TRAIN (R150). -/
def LinkPort.controlDue (lp : LinkPort) : Bool :=
  lp.ackOwed || !lp.replayReqs.isEmpty || !lp.owedTrains.isEmpty

/-- The next packet of a replay is resent with its own sequence number (R178). -/
def LinkPort.resend (lp : LinkPort) : LinkPort :=
  match lp.replayLeft with
  | [] => lp
  | q :: rest =>
    let lp' := { lp with replayLeft := rest }
    match lp.replayStore.find? fun pkt => pkt.seq = q with
    | none => lp'
    | some pkt => lp'.send (packetBytes pkt.packet pkt.seq)

/-- The N packet that competes for the link, and whether it stands in the fence slot: the older of the
head of the N transmit queue and the packet in the fence slot (R149). -/
def LinkPort.nPacket (lp : LinkPort) : Option (OutSlot × Bool) :=
  match lp.transmit.n, lp.fenceSlot with
  | [], none => none
  | a :: _, none => some (a, false)
  | [], some f => some (f, true)
  | a :: _, some f => if a.stamp < f.stamp then some (a, false) else some (f, true)

/-- The head of a channel that competes for the link, and whether it stands in the fence slot. -/
def LinkPort.headOf (lp : LinkPort) : Chan → Option (OutSlot × Bool)
  | .n => lp.nPacket
  | ch => (lp.transmit.get ch).head?.map fun slot => (slot, false)

/-- The packets of a channel in the replay store: those sent and not yet credited back (R144). -/
def LinkPort.inFlight (lp : LinkPort) (ch : Chan) : Nat :=
  (lp.replayStore.filter fun pkt => pkt.packet.kind.chan = ch).length

/-- Whether the head of a channel is sendable (R149). -/
def LinkPort.sendable (lp : LinkPort) (ch : Chan) : Bool :=
  match lp.headOf ch with
  | none => false
  | some (slot, _) =>
    lp.state = .up && lp.replayStore.length < Config.replayCapacity
      && lp.inFlight ch < lp.credit.get ch
      && (ch ≠ .n || lp.transmit.p.all fun older => slot.stamp ≤ older.stamp)

/-- The channel the arbiter takes: the first sendable head from the pointer on (R150). -/
def LinkPort.chosen (lp : LinkPort) : Option Chan :=
  lp.pointer.cycle.find? lp.sendable

/-- A head leaves its transmit queue, or the fence slot (R151). -/
def LinkPort.takeHead (lp : LinkPort) (ch : Chan) (fromFence : Bool) : LinkPort :=
  if fromFence then { lp with fenceSlot := none }
  else { lp with transmit := lp.transmit.set ch (lp.transmit.get ch).tail }

/-- The transmission of a head: it takes the next transmit sequence number and a check code, a copy
enters the replay store, and the pointer moves on (R151, R176, R150). -/
def LinkPort.transmitHead (lp : LinkPort) (now : Time) (ch : Chan) (slot : OutSlot)
    (fromFence : Bool) : LinkPort :=
  let lp' := (lp.takeHead ch fromFence).send (packetBytes slot.packet lp.txNext)
  { lp' with
    txNext := lp.txNext + 1
    replayStore := lp.replayStore ++ [⟨lp.txNext, slot.packet⟩]
    ackDeadline := if lp.replayStore = [] then some (now + Config.ackTime) else lp.ackDeadline
    pointer := ch.next }

/-- A transmission opportunity used for a head of the three channels; a freed slot of a transmit queue
clears the wait marks for it (R147, R150, R151). -/
def transmit (p : Port) (s : State) : State :=
  let lp := s.port p
  if lp.controlDue || !lp.replayLeft.isEmpty then s
  else
    match lp.chosen with
    | none => s
    | some ch =>
      match lp.headOf ch with
      | none => s
      | some (slot, fromFence) =>
        let s' := s.setPort p (lp.transmitHead s.timebase ch slot fromFence)
        if fromFence then s' else clearMarks (.transmit p ch) s'

/-- A due ACK is formed and sent (R142). -/
def LinkPort.sendAck (lp : LinkPort) : LinkPort :=
  { lp.send (ackBytes lp.lastAccepted lp.allFree) with ackOwed := false }

end Sys2Proof.Machine
end

