-- ==== Sys2Proof/Machine/Steering.lean ====
section
/-! DEFINITION. The Steering Engine: the lookup (Sections 1.3 to 1.6), hit counts (Section 1.8), the
staging edits (Section 5.1), the swap (R93) and the warm reset of the lists (R9). -/

namespace Sys2Proof.Machine

/-! ### The lookup -/

/-- What a request presents to the lookup (R11). -/
structure Request where
  port : Port
  source : UnitNo
  kind : PacketKind
  address : Addr
  length : Nat
  deriving DecidableEq, Repr

/-- The request a packet presents, arriving on a port. -/
def requestOf (p : Port) (pkt : Packet) : Request :=
  ⟨p, pkt.source, pkt.kind, pkt.address, pkt.length.toNat⟩

/-- The kinds of request a kinds value covers (Table 1-2). -/
def Kinds.covers : Kinds → PacketKind → Bool
  | .reads, .read | .writes, .write | .writes, .writeAck => true
  | .all, .read | .all, .write | .all, .writeAck => true
  | _, _ => false

/-- Whether an arrival field names a port (R2). -/
def Arrival.names : Arrival → Port → Bool
  | .u, .u | .d, .d | .both, _ => true
  | .u, .d | .d, .u => false

/-- Whether an entry is a candidate for a request (R12); a release lookup passes over HOLD entries
(R21). -/
def Entry.candidate (e : Entry) (release : Bool) (r : Request) : Bool :=
  e.arrival.names r.port && UnitSet.holds e.sources r.source && e.kinds.covers r.kind
    && !(release && e.action = .hold)

/-- The last address of a request's range. -/
def Request.last (r : Request) : Nat := r.address.toNat + r.length - 1

/-- The last address of an entry's window. -/
def Entry.last (e : Entry) : Nat := e.base.toNat + e.size - 1

/-- Whether the request's range is contained in the entry's window (R13). -/
def Entry.containsRange (e : Entry) (r : Request) : Bool :=
  e.base.toNat ≤ r.address.toNat && r.last ≤ e.last

/-- Whether the request's range overlaps the entry's window (R13). -/
def Entry.overlapsRange (e : Entry) (r : Request) : Bool :=
  r.address.toNat ≤ e.last && e.base.toNat ≤ r.last

/-- The walk: the entry that decides a request, and whether it contains the request's range (a MATCH)
or straddles it (a BOUNDARY); none when no candidate decides (R12, R13). -/
def walk (release : Bool) (r : Request) : List ActiveEntry → Option (ActiveEntry × Bool)
  | [] => none
  | a :: rest =>
    if a.entry.candidate release r then
      if a.entry.containsRange r then some (a, true)
      else if a.entry.overlapsRange r then some (a, false)
      else walk release r rest
    else walk release r rest

/-- The steered address of FORWARD and REFLECT (R19). -/
def Entry.steered (e : Entry) (a : Addr) : Addr :=
  e.translated.getD 0 + (a - e.base)

/-- The ruling of an entry that matches a request (Table 1-4, R20). -/
def Entry.ruling (e : Entry) (params : Params) (r : Request) : Ruling :=
  match e.action with
  | .forward =>
    .steer .forward (otherPort r.port) (e.target.getD 0) (e.steered r.address)
      (e.replyTimeout.getD params.replyTimeout)
  | .reflect =>
    .steer .reflect r.port (e.target.getD 0) (e.steered r.address)
      (e.replyTimeout.getD params.replyTimeout)
  | .refuse => .refuse (e.notify.getD false)
  | .hold => .hold (e.holdLimit.getD params.holdLimit)

/-- The ruling of a default action (R17). -/
def DefaultAction.ruling (a : DefaultAction) (params : Params) (r : Request) : Ruling :=
  match a with
  | .refuse => .defaultRefuse
  | .pass target => .steer .pass (otherPort r.port) target r.address params.replyTimeout

/-- A lookup, or with `release` a release lookup, taken as one event against the Active List (R11, R18,
R21). -/
def State.lookup (s : State) (release : Bool) (r : Request) : Decision :=
  match walk release r s.steering.active with
  | some (a, true) => ⟨a.entry.ruling s.mgmt.params r, a.entry.label, s.generation⟩
  | some (a, false) => ⟨.boundary, a.entry.label, s.generation⟩
  | none => ⟨(s.steering.defaults.get r.port).ruling s.mgmt.params r, 0, s.generation⟩

/-- Whether an address lies in the aperture as placed (R22). -/
def State.inAperture (s : State) (a : Addr) : Bool :=
  s.mgmt.apertureBase.toNat ≤ a.toNat && a.toNat ≤ s.mgmt.apertureBase.toNat + 0xFFFF

/-! ### Hit counts (R23, R24) -/

/-- A hit count raised by 1, saturating (R23). -/
def countUp (hits : BitVec 32) : BitVec 32 :=
  if hits = 0xFFFFFFFF then hits else hits + 1

/-- Whether an entry's count has run without restart since a generation: counting forward from the
count origin, that generation is reached at or before the current one (R23). -/
def runSince (origin reported current : Gen) : Bool :=
  (reported - origin).toNat ≤ (current - origin).toNat

/-- The Steering Engine takes a completion report (R23). -/
def Steering.count (st : Steering) (r : Report) : Steering :=
  if r.label = 0 then st
  else
    { st with active := st.active.map fun a =>
        if a.entry.label = r.label ∧ runSince a.origin r.generation st.generation = true then
          { a with hits := countUp a.hits }
        else a }

/-- The oldest report of a party is taken from those on their way: first in, first out. R23 gives the
reports of a party no order. DESIGN CHOICE (notes/assumptions/42.md). -/
def Steering.popReport (st : Steering) : Party → Steering
  | .dispatcher p => { st with reports := st.reports.set p (st.reports.get p).tail }
  | .hold => { st with holdReports := st.holdReports.tail }

/-- The reports of a party on their way, oldest first. -/
def Steering.reportsOf (st : Steering) : Party → List Report
  | .dispatcher p => st.reports.get p
  | .hold => st.holdReports

/-- The Active entry a staging entry becomes at a swap: it keeps the hit count and count origin of the
old Active entry with equal fields, or starts again (R24). -/
def carryCount (old : List ActiveEntry) (generation : Gen) (e : Entry) : ActiveEntry :=
  match old.find? fun a => a.entry = e with
  | some a => a
  | none => ⟨e, 0, generation⟩

/-- The swap of a commit (R93). -/
def Steering.swap (st : Steering) : Steering :=
  { st with
    active := st.staging.map (carryCount st.active (st.generation + 1))
    generation := st.generation + 1 }

/-- The Steering Engine's warm reset (R9). -/
def Steering.warmReset (st : Steering) : Steering :=
  let kept := st.active.filter fun a => a.entry.pinned
  { st with
    active := kept
    staging := kept.map (·.entry)
    generation := st.generation + 1
    defaults := ⟨.refuse, .refuse⟩ }

/-! ### Staging edits (Section 5.1) -/

/-- Whether a label is pinned in the Active List (R90). -/
def Steering.pinnedLabel (st : Steering) (label : Label) : Bool :=
  st.active.any fun a => a.entry.label = label && a.entry.pinned

/-- The staging entry of a label (R1). -/
def Steering.staged (st : Steering) (label : Label) : Option Entry :=
  st.staging.find? fun e => e.label = label

/-- An entry placed at a position; the entries at and after it move one position later (R85). -/
def placeAt (position : Nat) (e : Entry) (l : List Entry) : List Entry :=
  l.take position ++ e :: l.drop position

/-- The entry of a label taken out; later entries move one position earlier (R86). -/
def takeOut (label : Label) (l : List Entry) : List Entry :=
  l.filter fun e => e.label ≠ label

/-- The result of a staging edit: DONE with the count of the Staging List and the new list, or the code
of the first check that failed (R83). -/
abbrev EditResult := Except ResultCode (List Entry)

/-- INSERT (R85, R186). -/
def insertEdit (units : Duo UnitNo) (body : List Byte) (st : Steering) : EditResult :=
  let position := field body 0 2
  match entryOfImage (body.drop 2) with
  | none => .error .badField
  | some e =>
    if 64 < position ∨ e.valid units = false then .error .badField
    else if (st.staged e.label).isSome then .error .dupLabel
    else if Config.listCapacity ≤ st.staging.length then .error .listFull
    else if st.staging.length < position then .error .badPosition
    else .ok (placeAt position e st.staging)

/-- REMOVE (R86). -/
def removeEdit (body : List Byte) (st : Steering) : EditResult :=
  let label : Label := BitVec.ofNat 16 (field body 0 2)
  if label = 0 then .error .badField
  else if (st.staged label).isNone then .error .noLabel
  else if st.pinnedLabel label then .error .pinned
  else .ok (takeOut label st.staging)

/-- MODIFY (R87, R186). -/
def modifyEdit (units : Duo UnitNo) (body : List Byte) (st : Steering) : EditResult :=
  let label : Label := BitVec.ofNat 16 (field body 0 2)
  match editOfImage (BitVec.ofNat 16 (field body 2 2)) (body.drop 4) with
  | none => .error .badField
  | some edit =>
    if label = 0 then .error .badField
    else
      match st.staged label with
      | none => .error .noLabel
      | some e =>
        if st.pinnedLabel label then .error .pinned
        else if (edit.apply e).valid units then
          .ok (st.staging.map fun f => if f.label = label then edit.apply f else f)
        else .error .badField

/-- MOVE (R88, R186). -/
def moveEdit (body : List Byte) (st : Steering) : EditResult :=
  let label : Label := BitVec.ofNat 16 (field body 0 2)
  let position := field body 2 2
  if label = 0 ∨ 63 < position then .error .badField
  else
    match st.staged label with
    | none => .error .noLabel
    | some e =>
      if st.pinnedLabel label then .error .pinned
      else if st.staging.length ≤ position then .error .badPosition
      else .ok (placeAt position e (takeOut label st.staging))

/-- A staging edit taken at the Steering Engine as one event: it succeeds whole or fails whole (R83). -/
def applyEdit (edit : EditResult) (s : State) : Result × State :=
  match edit with
  | .error code => (refusal code, s)
  | .ok staging =>
    (⟨.done, BitVec.ofNat 32 staging.length⟩, { s with steering := { s.steering with staging := staging } })

end Sys2Proof.Machine
end

