-- ==== Sys2Proof/Machine/Dispatcher.lean ====
section
/-! DEFINITION. The dispatchers: which head is taken, the checks before the decision, and the outcomes
(Chapter 2). -/

namespace Sys2Proof.Machine

/-! ### Which head may be taken (R27 to R30) -/

/-- Whether the head of a channel is eligible: it exists and carries no wait mark, and for N no packet of
the same port's P ingress queue arrived before it. -/
def eligible (lp : LinkPort) (d : Dispatcher) (ch : Chan) : Bool :=
  match (lp.ingress.get ch).head? with
  | none => false
  | some slot =>
    d.marks.get ch = [] && (ch ≠ .n || lp.ingress.p.all fun older => slot.stamp ≤ older.stamp)

/-- The channel whose head a free dispatcher takes: the first eligible one from the pointer on (R30). -/
def chosenHead (p : Port) (s : State) : Option Chan :=
  let d := s.dispatcher p
  if d.work.isSome then none else d.pointer.cycle.find? (eligible (s.port p) d)

/-! ### Checks (R31, R32) -/

/-- The checks of R31, in their order. -/
inductive Malformation where
  | kind
  | length
  | range
  | fenceLength
  | destination
  | source
  deriving DecidableEq, Repr

/-- Whether a kind is READ, WRITE or WRITE_ACK. -/
def PacketKind.isAccess : PacketKind → Bool
  | .write | .writeAck | .read => true
  | .fence | .reply | .other _ => false

/-- The first check of R31 that a packet fails, the bridge unit of its port given. -/
def malformation (unit : UnitNo) (pkt : Packet) : Option Malformation :=
  if !pkt.kind.isAccess && pkt.kind ≠ .fence then some .kind
  else if pkt.kind.isAccess && (pkt.length.toNat = 0 || Config.maxPayload < pkt.length.toNat) then
    some .length
  else if pkt.kind.isAccess && 2 ^ 48 < pkt.address.toNat + pkt.length.toNat then some .range
  else if pkt.kind = .fence && pkt.length ≠ 0 then some .fenceLength
  else if pkt.dest ≠ unit then some .destination
  else if pkt.source = unit then some .source
  else none

/-- The detail of a MALFORMED notice (R130, Section 11.3); a posted write fails one of four checks. -/
def Malformation.detail : Malformation → BitVec 16
  | .length => 1
  | .range => 2
  | .destination => 3
  | .source => 4
  | .kind | .fenceLength => 0

/-- The MALFORMED notice of a posted write (R130). -/
def malformedNotice (p : Port) (req : Packet) (why : Malformation) (s : State) : NoticeReq :=
  { requestNotice .malformed p req 0 s.generation why.detail with tag := 0 }

/-- The APERTURE_MISUSE notice; its detail is POSTED 1, NOT_MANAGER 2 or RELEASED 3 (R130). -/
def misuseNotice (req : Packet) (detail : BitVec 16) (s : State) : NoticeReq :=
  requestNotice .apertureMisuse .u req 0 s.generation detail

/-- The REFUSED notice of a decision; its detail is ENTRY 1, DEFAULT 2 or EGRESS_DOWN 3 (R130). -/
def refusedNotice (p : Port) (req : Packet) (dec : Decision) (detail : BitVec 16) : NoticeReq :=
  requestNotice .refused p req dec.label dec.generation detail

/-- The BOUNDARY notice of a decision (R15). -/
def boundaryNotice (p : Port) (req : Packet) (dec : Decision) : NoticeReq :=
  requestNotice .boundary p req dec.label dec.generation 0

/-! ### Placing an outcome (R36, R37) -/

/-- The completion of a dispatch, with its notices and, under an entry, its completion report. -/
def complete (p : Port) (ch : Chan) (dec : Option Decision) (notices : List NoticeReq) (s : State) :
    State :=
  let s := raiseList notices (finishHead p ch s)
  match dec with
  | none => s
  | some dec => reportCompletion (.dispatcher p) dec s

/-- A refusal: a posted write is discarded, and a non-posted request is answered with a reply of the given
status in the origin port's C transmit queue, or dropped with a wait mark for C space. A dropped refusal
raises no notice (R36, R40). -/
def refuse (p : Port) (ch : Chan) (req : Packet) (status : ReplyStatus) (dec : Option Decision)
    (notices : List NoticeReq) (s : State) : State :=
  if req.kind = .write then complete p ch dec notices s
  else if offerAnswer p .c s = .accepted then
    complete p ch dec notices
      (enqueue p .c (madeUpReply (s.unit p) req.source req.tag status) s)
  else dropHead p ch [.transmit p .c] s

/-- A malformed head (R31). -/
def refuseMalformed (p : Port) (ch : Chan) (req : Packet) (why : Malformation) (s : State) : State :=
  refuse p ch req .unsupported none
    (if req.kind = .write then [malformedNotice p req why s] else []) s

/-- The egress-down outcome (R40). -/
def egressDown (p : Port) (ch : Chan) (req : Packet) (dec : Decision) (s : State) : State :=
  refuse p ch req .linkDown (some dec)
    (if req.kind = .write then [refusedNotice p req dec 3] else []) s

/-! ### Aperture accesses (R32) -/

/-- The slot an aperture access takes, with its offset recorded against the base in force (R108, R116). -/
def commandSlotOf (base : Addr) (req : Packet) : CommandSlot where
  source := req.source
  tag := req.tag
  kind := req.kind
  address := req.address
  offset := req.address.toNat - base.toNat
  length := req.length
  payload := req.payload
  state := .waiting

/-- A port-U request whose start address lies in the aperture (R32, R22). -/
def apertureAccess (p : Port) (ch : Chan) (req : Packet) (s : State) : State :=
  if req.kind = .write then complete p ch none [misuseNotice req 1 s] s
  else if s.mgmt.apertureBase.toNat + 0xFFFF < req.address.toNat + req.length.toNat - 1 then
    refuse p ch req .unsupported none [] s
  else if s.mgmt.queue.length < Config.commandSlots then
    finishHead p ch
      (setMgmt { s.mgmt with queue := s.mgmt.queue ++ [commandSlotOf s.mgmt.apertureBase req] } s)
  else if offerAnswer p .c s = .accepted then
    finishHead p ch (enqueue p .c (madeUpReply (s.unit p) req.source req.tag .busy) s)
  else dropHead p ch [.commandSlot, .transmit p .c] s

/-! ### FENCE (R39) -/

/-- A FENCE: it asks for a tag when the opposite port is UP, and is answered OK at once otherwise. -/
def fenceDispatch (p : Port) (ch : Chan) (req : Packet) (s : State) : State :=
  if (s.port (otherPort p)).state = .up then setWork p (.allocateFence (otherPort p)) s
  else refuse p ch req .ok none [] s

/-! ### The dispatch (R26) -/

/-- A decision is carried out, up to the first offer that another block owns (Table 2-1, R33 to R40). -/
def carryOut (p : Port) (ch : Chan) (req : Packet) (dec : Decision) (s : State) : State :=
  match dec.ruling with
  | .steer _ egress _ _ _ =>
    if (s.port egress).state ≠ .up then egressDown p ch req dec s
    else if req.kind = .write then setWork p (.pOffer dec) s
    else setWork p (.allocate dec) s
  | .refuse notify =>
    refuse p ch req .refused (some dec) (if notify then [refusedNotice p req dec 1] else []) s
  | .hold _ => setWork p (.holdOffer ch dec) s
  | .boundary => refuse p ch req .boundary (some dec) [boundaryNotice p req dec] s
  | .defaultRefuse => refuse p ch req .refused (some dec) [refusedNotice p req dec 2] s

/-- The dispatch of a P or N head (R26, R43). -/
def dispatchRequest (p : Port) (ch : Chan) (slot : InSlot) (s : State) : State :=
  let req := slot.packet
  if slot.aborted then
    if offerAnswer p .c s = .accepted then
      finishHead p ch (enqueue p .c (madeUpReply (s.unit p) req.source req.tag .aborted) s)
    else dropHead p ch [.transmit p .c] s
  else
    match malformation (s.unit p) req with
    | some why => refuseMalformed p ch req why s
    | none =>
      if req.kind = .fence then fenceDispatch p ch req s
      else if p = .u ∧ s.inAperture req.address = true then apertureAccess p ch req s
      else carryOut p ch req (s.lookup false (requestOf p req)) s

/-- A dispatcher that is free takes the first eligible head (R30). -/
def dispatchHead (p : Port) (s : State) : State :=
  match chosenHead p s with
  | none => s
  | some ch =>
    match ((s.port p).ingress.get ch).head? with
    | none => s
    | some slot => if ch = .c then setWork p .present s else dispatchRequest p ch slot s

/-! ### The offers of a dispatch -/

/-- The packet at the head of a channel. -/
def headPacket (p : Port) (ch : Chan) (s : State) : Option Packet :=
  ((s.port p).ingress.get ch).head?.map (·.packet)

/-- A steered request as it leaves (Table 2-2). -/
def steeredPacket (req : Packet) (source dest : UnitNo) (tag : Tag) (address : Addr) : Packet :=
  { req with source := source, dest := dest, tag := tag, address := address, status := 0 }

/-- A FENCE as the part sends it: with no address and length 0 (R39, R96). -/
def fencePacket (source dest : UnitNo) (tag : Tag) : Packet where
  kind := .fence
  source := source
  dest := dest
  tag := tag
  length := 0
  status := 0
  address := 0
  payload := []

/-- What becomes of a P offer (R34, R147). -/
inductive POfferAnswer where
  | accepted
  | full
  | stale
  | down
  deriving DecidableEq, Repr

/-- The answer to a P offer: the stale test comes whatever the space, then the port and the space (R147). -/
def pOfferAnswer (egress : Port) (dec : Decision) (s : State) : POfferAnswer :=
  if dec.generation ≠ s.generation then .stale
  else
    match offerAnswer egress .p s with
    | .accepted => .accepted
    | .full => .full
    | .down => .down

/-- The P offer of a dispatcher (R34). -/
def dispatcherPOffer (p : Port) (s : State) : State :=
  match (s.dispatcher p).work, headPacket p .p s with
  | some (.pOffer dec), some req =>
    match dec.ruling with
    | .steer _ egress dest address _ =>
      match pOfferAnswer egress dec s with
      | .accepted =>
        complete p .p (some dec) []
          (enqueue egress .p (steeredPacket req (s.unit egress) dest 0 address) s)
      | .full => dropHead p .p [.transmit egress .p] s
      | .stale => dropHead p .p [] s
      | .down => egressDown p .p req dec s
    | _ => s
  | _, _ => s

/-- The tracker makes an entry under the head of the free pool. -/
def allocateEntry (e : TrackEntry) (s : State) : State :=
  setTracker (s.tracker.allocate e) s

/-- The allocation of a dispatcher, for a steered request (R35) or a FENCE (R39). The egress port is not
looked at again here, even where it has gone down since the egress test: DESIGN CHOICE
(notes/assumptions/37.md). -/
def dispatcherAllocation (p : Port) (s : State) : State :=
  match (s.dispatcher p).work, headPacket p .n s with
  | some (.allocate dec), some req =>
    match dec.ruling with
    | .steer _ egress dest address timeout =>
      match allocAnswer dec.generation s with
      | .empty => dropHead p .n [.tag] s
      | .stale => dropHead p .n [] s
      | .tag t =>
        let e := steeredEntry s t p req dec egress dest address timeout
        setWork p (.place (some dec) e) (allocateEntry e s)
    | _ => s
  | some (.allocateFence egress), some req =>
    match allocAnswer s.generation s with
    | .tag t =>
      let e := fenceEntry s t p req egress
      setWork p (.place none e) (allocateEntry e s)
    | _ => dropHead p .n [.tag] s
  | _, _ => s

/-- The packet a tagged request leaves as: a steered request under its bridge tag, or a FENCE. -/
def taggedPacket (req : Packet) (e : TrackEntry) (source : UnitNo) : Packet :=
  if e.kind = .fence then fencePacket source e.dest e.tag
  else steeredPacket req source e.dest e.tag e.address

/-- What becomes of an N placement (R35). -/
inductive PlaceAnswer where
  /-- The request enters the egress N transmit queue. -/
  | placed
  /-- There is no free slot: the tag is handed back. -/
  | handBack
  /-- The egress port went down: the tracker's closed entry answers. -/
  | down
  /-- The entry has left AWAITING: its closing reply answers, and the request is not sent. -/
  | closed
  deriving DecidableEq, Repr

/-- The joint answer of the egress N transmit queue and the tracker, which gives the state of the new
entry (R35). A port that is down answers `down` whatever the entry is. R35 speaks of a port that goes down
between the allocation and the placement, whose entry the port-down has closed; of one that goes down
after the egress test and before the allocation it says nothing. Then the entry is made AWAITING, the
placement is refused here as down, the dispatch or release completes, and the entry, which no port-down
meets any more, is answered by TIMEOUT at its expiry. DESIGN CHOICE (notes/assumptions/37.md). -/
def placeAnswerOf (e : TrackEntry) (s : State) : PlaceAnswer :=
  match offerAnswer e.egress .n s with
  | .down => .down
  | .accepted => if s.tracker.find e.tag = some e then .placed else .closed
  | .full => if s.tracker.find e.tag = some e then .handBack else .closed

/-- The N placement of a dispatcher (R35, R39), by `placeAnswerOf`, which says what is the model's choice. -/
def dispatcherPlacement (p : Port) (s : State) : State :=
  match (s.dispatcher p).work, headPacket p .n s with
  | some (.place dec e), some req =>
    match placeAnswerOf e s with
    | .placed =>
      complete p .n dec [] (enqueue e.egress .n (taggedPacket req e (s.unit e.egress)) s)
    | .handBack => dropHead p .n [.transmit e.egress .n] (handBack e s)
    | .down => complete p .n dec [] s
    | .closed => complete p .n dec [] s
  | _, _ => s

/-- The HOLD offer of a dispatcher: the Hold Queue takes the request, or the HOLD_FULL refusal is made
(R38, R73). -/
def dispatcherHoldOffer (p : Port) (s : State) : State :=
  match (s.dispatcher p).work with
  | some (.holdOffer ch dec) =>
    match dec.ruling, headPacket p ch s with
    | .hold limit, some req =>
      if s.hold.slots.length < Config.holdSlots then
        let slot := newHoldSlot s p req dec limit
        complete p ch (some dec) [holdNotice .held slot] (setHold (s.hold.enter slot) s)
      else if req.kind = .write then
        complete p ch (some dec) [requestNotice .holdFull p req dec.label dec.generation 0] s
      else if offerAnswer p .c s = .accepted then
        complete p ch (some dec) [requestNotice .holdFull p req dec.label dec.generation 0]
          (enqueue p .c (madeUpReply (s.unit p) req.source req.tag .refused) s)
      else dropHead p ch [.holdSlot, .transmit p .c] s
    | _, _ => s
  | _ => s

/-! ### Warm reset (R43) -/

/-- Whether a dispatch in progress has taken a traffic tag. -/
def Work.hasTag : Work → Bool
  | .place _ _ => true
  | _ => false

/-- The port's ingress queues at the warm reset: P is emptied, N packets are marked aborted, and the head
of a dispatch that has taken a tag leaves (R43). -/
def LinkPort.warmIngress (lp : LinkPort) (tagged : Bool) : LinkPort :=
  let n := if tagged then lp.ingress.n.tail else lp.ingress.n
  { lp with
    ingress := { lp.ingress with p := [], n := n.map fun slot => { slot with aborted := true } }
    ackOwed := lp.ackOwed || !lp.ingress.p.isEmpty || (tagged && !lp.ingress.n.isEmpty) }

/-- A dispatcher takes the warm reset: its dispatch in progress ends and its wait marks are cleared; the
pointer keeps its value (R43, R25). -/
def dispatcherWarmReset (p : Port) (s : State) : State :=
  let d := s.dispatcher p
  (s.setPort p ((s.port p).warmIngress (d.work.any Work.hasTag))).setDispatcher p
    { d with marks := ⟨[], [], []⟩, work := none }

end Sys2Proof.Machine
end

