-- ==== Sys2Proof/Machine/Release.lean ====
section
/-! DEFINITION. Releases: RELEASE, its wait and its steps (Section 4.5). -/

namespace Sys2Proof.Machine

/-- What carrying out a command comes to: a result, or a RELEASE whose result is known only when its work
ends (R77, R116). -/
inductive Run where
  | finished (r : Result) (s : State)
  | suspended (s : State)

/-- The latest arrival stamp of a port's P ingress queue; none when the queue is empty (R77). -/
def latestArrival (lp : LinkPort) : Option Nat :=
  lp.ingress.p.getLast?.map (·.stamp)

/-- The RELEASE event (R77). -/
def startRelease (body : List Byte) (s : State) : Run :=
  let id := byteAt body 0
  if id = 0 then .finished (refusal .badField) s
  else
    match s.hold.findHeld id with
    | none => .finished (refusal .noHold) s
    | some h =>
      .suspended (setHold { s.hold with
        release := some ⟨h, latestArrival (s.port h.origin), .waiting, true⟩ } s)

/-- Whether every posted write at or before the release mark has left the origin's P ingress queue
(R77). -/
def waitOver (r : Release) (lp : LinkPort) : Bool :=
  match r.mark with
  | none => true
  | some mark => lp.ingress.p.all fun slot => mark < slot.stamp

/-- The release goes on to another of its steps. -/
def setPhase (r : Release) (phase : ReleasePhase) (s : State) : State :=
  setHold { s.hold with release := some { r with phase := phase } } s

/-- The end of the wait: the Hold Queue looks at the record again (R77). It is a command of its own, after
the event by which the wait is over, and other events may come between. DESIGN CHOICE of the grain
(notes/assumptions/45.md). -/
def endWait (s : State) : State :=
  match s.hold.release with
  | none => s
  | some r =>
    if r.phase = .waiting ∧ waitOver r (s.port r.record.origin) = true then
      if s.hold.stillHeld r.record = false then endRelease (refusal .noHold) s
      else if (s.port r.record.origin).state ≠ .up then
        endRelease (refusal .originDown) (refuseHeld r.record .refused s)
      else setPhase r .lookup s
    else s

/-- The release outcomes of a DONE result (R186). -/
inductive ReleaseOutcome where
  | steered
  | refused
  | boundary
  | egressDown
  | aperture
  deriving DecidableEq, Repr

def ReleaseOutcome.code : ReleaseOutcome → Nat
  | .steered => 1
  | .refused => 2
  | .boundary => 3
  | .egressDown => 4
  | .aperture => 5

/-- A DONE result of RELEASE: the outcome in byte 4, and the bridge tag with bit 7 set in byte 5 when a
steered request took one (R186). -/
def releaseResult (outcome : ReleaseOutcome) (tag : Option Tag) : Result :=
  ⟨.done, BitVec.ofNat 32
    (outcome.code + match tag with
      | none => 0
      | some t => 256 * (128 + t.toNat))⟩

/-- The release ends DONE, its slot settled already: it completes a dispatch, which an entry counts
(R78, R23). -/
def endDone (dec : Option Decision) (r : Result) (s : State) : State :=
  endRelease r
    (match dec with
      | none => s
      | some dec => reportCompletion .hold dec s)

/-- The release ends with the request refused under its answer (Table 4-2). -/
def endRefused (h : HoldSlot) (status : AnswerStatus) (dec : Option Decision)
    (notices : List NoticeReq) (outcome : ReleaseOutcome) (s : State) : State :=
  endDone dec (releaseResult outcome none) (raiseList notices (refuseHeld h status s))

/-- The release ends with the request still HELD; an expiry reached meanwhile is taken at once (R78). -/
def endHeld (h : HoldSlot) (code : ResultCode) (s : State) : State :=
  let s := endRelease (refusal code) s
  match h.state with
  | .held deadline => if reached s.timebase deadline then expireHeld h s else s
  | .answering _ _ => s

/-- Step 1 and step 2 of R78, and the placements of step 3 that need no slot or tag (Table 4-2). -/
def releaseLookup (r : Release) (h : HoldSlot) (s : State) : State :=
  if h.origin = .u ∧ s.inAperture h.request.address = true then
    endRefused h .refused none [misuseNotice h.request 3 s] .aperture s
  else
    let dec := s.lookup true (requestOf h.origin h.request)
    match dec.ruling with
    | .steer _ egress _ _ _ =>
      if (s.port egress).state ≠ .up then
        endRefused h .linkDown (some dec)
          (if h.request.kind = .write then [refusedNotice h.origin h.request dec 3] else [])
          .egressDown s
      else if h.request.kind = .write then setPhase r (.pOffer dec) s
      else setPhase r (.allocate dec) s
    | .refuse notify =>
      endRefused h .refused (some dec)
        (if notify then [refusedNotice h.origin h.request dec 1] else []) .refused s
    | .boundary =>
      endRefused h .boundary (some dec) [boundaryNotice h.origin h.request dec] .boundary s
    | .defaultRefuse =>
      endRefused h .refused (some dec) [refusedNotice h.origin h.request dec 2] .refused s
    | .hold _ => s

/-- The P offer of a released posted write (R78, R34). -/
def releasePOffer (r : Release) (h : HoldSlot) (dec : Decision) (s : State) : State :=
  match dec.ruling with
  | .steer _ egress dest address _ =>
    match pOfferAnswer egress dec s with
    | .accepted =>
      endDone (some dec) (releaseResult .steered none)
        (freeSlot h.id
          (enqueue egress .p (steeredPacket h.request (s.unit egress) dest 0 address) s))
    | .full => endHeld h .busy s
    | .stale => setPhase r .lookup s
    | .down =>
      endRefused h .linkDown (some dec) [refusedNotice h.origin h.request dec 3] .egressDown s
  | _ => s

/-- The allocation of a released non-posted request (R78, R50). -/
def releaseAllocation (r : Release) (h : HoldSlot) (dec : Decision) (s : State) : State :=
  match dec.ruling with
  | .steer _ egress dest address timeout =>
    match allocAnswer dec.generation s with
    | .empty => endHeld h .noTag s
    | .stale => setPhase r .lookup s
    | .tag t =>
      let e := steeredEntry s t h.origin h.request dec egress dest address timeout
      setPhase r (.place dec e) (allocateEntry e s)
  | _ => s

/-- The N placement of a released non-posted request (R78, step 2 of R35). Where the egress port went down
before the allocation already, the entry stays AWAITING and answers TIMEOUT at its expiry: DESIGN CHOICE
(notes/assumptions/37.md). -/
def releasePlacement (h : HoldSlot) (dec : Decision) (e : TrackEntry) (s : State) : State :=
  match placeAnswerOf e s with
  | .placed =>
    endDone (some dec) (releaseResult .steered (some e.tag))
      (freeSlot h.id (enqueue e.egress .n (taggedPacket h.request e (s.unit e.egress)) s))
  | .handBack => endHeld h .busy (handBack e s)
  | .down => endDone (some dec) (releaseResult .egressDown none) (freeSlot h.id s)
  | .closed => endDone (some dec) (releaseResult .steered (some e.tag)) (freeSlot h.id s)

/-- The release in progress with the HELD record it names. -/
def releasing (s : State) : Option (Release × HoldSlot) :=
  match s.hold.release with
  | none => none
  | some r => if s.hold.stillHeld r.record then some (r, r.record) else none

/-- The P offer of the release in progress. -/
def holdPOffer (s : State) : State :=
  match releasing s with
  | some (r, h) =>
    match r.phase with
    | .pOffer dec => releasePOffer r h dec s
    | _ => s
  | none => s

/-- The allocation of the release in progress. -/
def holdAllocation (s : State) : State :=
  match releasing s with
  | some (r, h) =>
    match r.phase with
    | .allocate dec => releaseAllocation r h dec s
    | _ => s
  | none => s

/-- The N placement of the release in progress. -/
def holdPlacement (s : State) : State :=
  match releasing s with
  | some (r, h) =>
    match r.phase with
    | .place dec e => releasePlacement h dec e s
    | _ => s
  | none => s

/-- The next of the release steps is taken, whichever it is (R78; notes/assumptions/10.md). -/
def nextReleaseStep (s : State) : State :=
  match releasing s with
  | some (r, h) =>
    match r.phase with
    | .waiting => s
    | .lookup => releaseLookup r h s
    | .pOffer dec => releasePOffer r h dec s
    | .allocate dec => releaseAllocation r h dec s
    | .place dec e => releasePlacement h dec e s
  | none => s

end Sys2Proof.Machine
end

