-- ==== Sys2Proof/Machine/Flags.lean ====
section
/-! DEFINITION. The status the part shows: the cooling indicator, the status block, and the readback areas
(R92, R111, R112, R187). -/

namespace Sys2Proof.Machine

/-- Whether a tag is in the cooling set. -/
def Tracker.isCooling (t : Tracker) (tag : Tag) : Bool :=
  t.cooling.any fun m => m.tag = tag

/-- The cooling indicator: a drain fence tag cools, or a fence packet stands in a reserved slot (R92,
R96). -/
def coolingIndicator (s : State) : Bool :=
  s.tracker.isCooling (fenceTag .u) || s.tracker.isCooling (fenceTag .d)
    || s.ports.u.fenceSlot.isSome || s.ports.d.fenceSlot.isSome

/-- The three states of a drain fence tag (R47). -/
inductive FenceTagState where
  | idle
  | inUse
  | cooling
  deriving DecidableEq, Repr

/-- The state of the drain fence tag of a port (R47). -/
def fenceTagState (p : Port) (s : State) : FenceTagState :=
  if (s.tracker.find (fenceTag p)).isSome then .inUse
  else if s.tracker.isCooling (fenceTag p) then .cooling
  else .idle

/-- Whether the Notice Unit keeps an emission offer (R134). -/
def emissionOffer (s : State) : Option Notice :=
  if s.mgmt.params.noticeTarget.enable = true ∧ s.ports.u.state = .up then s.notices.queue.head?
  else none

/-- The width and rate a port shows: 0 unless it is UP or RETRAINING (R170). -/
def LinkPort.shownRate (lp : LinkPort) : List Byte :=
  if lp.state = .up ∨ lp.state = .retraining then
    match lp.negotiated with
    | none => [0, 0]
    | some o => offerBytes o
  else [0, 0]

/-- The group of a port: link state, lanes, rate, partner unit, attempt count (Table 11-10). -/
def portGroup (lp : LinkPort) : List Byte :=
  [lp.state.code] ++ lp.shownRate
    ++ [match lp.partnerUnit with
        | none => 0xFF
        | some n => unitByte n,
      BitVec.ofNat 8 lp.attempts]

/-- A default action: its code and target. -/
def defaultBytes : DefaultAction → List Byte
  | .refuse => [1, 0]
  | .pass target => [2, unitByte target]

def boolByte (b : Bool) : Byte := if b then 1 else 0

def CommitState.code : CommitState → Byte
  | .idle => 0
  | .draining => 1

def LateCauses.code (l : LateCauses) : Byte :=
  flagBit l.timeout 0 ||| flagBit l.linkDown 1 ||| flagBit l.aborted 2 ||| flagBit l.skipped 3

/-- The Commit Status, offsets 0x00 to 0x13. -/
def commitGroup (s : State) : List Byte :=
  [s.commit.state.code, boolByte (coolingIndicator s)] ++ toLE 2 s.generation.toNat
    ++ toLE 2 s.commit.drainGeneration.toNat
    ++ [BitVec.ofNat 8 s.commit.remaining, s.commit.fences.u.code, s.commit.fences.d.code,
        s.commit.late.code, boolByte s.commit.forced, s.commit.lastOutcome.code]
    ++ toLE 4 s.commit.accepted.toNat ++ toLE 4 s.commit.done.toNat

/-- The list, tracker, Hold Queue and notice counts, offsets 0x20 to 0x2E. -/
def countGroup (s : State) : List Byte :=
  let n := fun k => BitVec.ofNat 8 k
  let c := s.tracker.counts
  [n s.steering.active.length, n s.steering.staging.length, n s.tracker.free.length,
    n s.tracker.cooling.length, n c.1, n c.2.1, n c.2.2,
    n (s.hold.slots.filter fun h => h.state.isHeld).length,
    n (s.hold.slots.filter fun h => !h.state.isHeld).length, s.hold.lastId,
    n s.notices.queue.length, 0]
    ++ toLE 2 s.notices.nextSeq.toNat ++ [n s.notices.dropped]

/-- The Management and Parameters groups and the timebase, offsets 0x40 to 0x73. -/
def managementGroup (s : State) : List Byte :=
  let m := s.mgmt
  let ps := m.params
  toLE 6 m.apertureBase.toNat ++ toLE 6 (m.pendingBase.getD 0).toNat
    ++ [boolByte m.pendingBase.isSome, boolByte m.locked, BitVec.ofNat 8 m.queue.length, 0]
    ++ toLE 4 m.managers.toNat ++ toLE 4 ps.replyTimeout.toNat ++ toLE 4 ps.holdLimit.toNat
    ++ defaultBytes s.steering.defaults.u ++ defaultBytes s.steering.defaults.d
    ++ toLE 6 ps.noticeTarget.address.toNat
    ++ [unitByte ps.noticeTarget.unit, boolByte ps.noticeTarget.enable, unitByte ps.unit.u,
        unitByte ps.unit.d]
    ++ offerBytes ps.linkPref.u ++ offerBytes ps.linkPref.d ++ [0, 0] ++ toLE 4 s.timebase.toNat

/-- The status block of Table 11-10, 128 bytes; its reserved offsets read 0 (R187). -/
def statusBlock (s : State) : List Byte :=
  padTo 0x20 (commitGroup s) ++ padTo 0x10 (countGroup s) ++ padTo 0x8 (portGroup s.ports.u)
    ++ padTo 0x8 (portGroup s.ports.d) ++ padTo 0x40 (managementGroup s)

/-- The 64-byte record at a position of a readback area; 0 past the count (R111, R187). -/
def recordAt (area : Area) (s : State) (k : Nat) : List Byte :=
  match area with
  | .active => padTo 64 ((s.steering.active[k]?.map activeRecord).getD [])
  | .staging => padTo 64 ((s.steering.staging[k]?.map stagingRecord).getD [])
  | .hold => padTo 64 ((s.hold.slots[k]?.map holdRecord).getD [])
  | .status => []

/-- The bytes an area read returns, `n` of them from offset `o` of the aperture, all of one moment (R111;
for the groups of the status block, of which R112 asks less, notes/assumptions/39.md). -/
def readArea (area : Area) (o n : Nat) (s : State) : List Byte :=
  let off := o - area.start
  match area with
  | .status => ((statusBlock s).drop off).take n
  | _ =>
    let first := off / 64
    let records := (List.range ((off + n - 1) / 64 - first + 1)).flatMap fun i =>
      recordAt area s (first + i)
    (records.drop (off % 64)).take n

end Sys2Proof.Machine
end

