-- ==== Sys2Proof/Machine/Management.lean ====
section
/-! DEFINITION. The Management Unit: the commands, batches, the answers of accesses, reply placement and the
warm reset (Chapters 5 and 6). -/

namespace Sys2Proof.Machine

/-- A command carried out as one event: its result and the state it leaves. -/
abbrev CommandRun := State → Result × State

/-- A command's DONE with value 0 (R120). -/
def doneResult : Result := ⟨.done, 0⟩

/-! ### Staging edits -/

def runInsert (body : List Byte) : CommandRun := fun s =>
  applyEdit (insertEdit s.mgmt.params.unit body s.steering) s

def runRemove (body : List Byte) : CommandRun := fun s => applyEdit (removeEdit body s.steering) s

def runModify (body : List Byte) : CommandRun := fun s =>
  applyEdit (modifyEdit s.mgmt.params.unit body s.steering) s

def runMove (body : List Byte) : CommandRun := fun s => applyEdit (moveEdit body s.steering) s

/-- CLEAR_STAGING: the Staging List becomes a copy of the Active List (R89). -/
def runClearStaging : CommandRun := fun s =>
  applyEdit (.ok (s.steering.active.map (·.entry))) s

/-! ### COMMIT and FORCE_DRAIN -/

/-- The fence state a swap sets for a port, from its link state (R95). -/
def swapFenceState (st : LinkState) : FenceState :=
  match st with
  | .up => .outstanding
  | .retraining => .skipped
  | .offline | .training | .faulted => .none

/-- The ports that are UP. -/
def upPorts (s : State) : List Port :=
  [Port.u, Port.d].filter fun p => (s.port p).state = .up

/-- A port that is UP at a swap gets its drain fence packet in its reserved slot, with a transmit stamp
of that event (R96, R148). -/
def LinkPort.placeFence (lp : LinkPort) (p : Port) (unit : UnitNo) : LinkPort :=
  if lp.state = .up then
    { lp with
      fenceSlot := some ⟨fencePacket unit (lp.partnerUnit.getD 0) (fenceTag p), lp.nextStamp⟩
      nextStamp := lp.nextStamp + 1 }
  else lp

/-- The tracker at a swap: a drain fence entry for each port that is UP, of the generation before the
swap (R47). -/
def Tracker.addFences (t : Tracker) (s : State) : Tracker :=
  { t with entries := t.entries ++ (upPorts s).map fun p => drainFenceEntry s p s.generation }

/-- The commit controller as a swap is taken: it enters DRAINING with the starting count the tracker
gives (R94, R95). -/
def Commit.start (c : Commit) (s : State) (count : Nat) : Commit :=
  { c with
    state := .draining
    drainGeneration := s.generation
    remaining := count
    fences := s.ports.map fun lp => swapFenceState lp.state
    late := ⟨false, false, false,
      s.ports.u.state = .retraining || s.ports.d.state = .retraining⟩
    forced := false
    accepted := s.timebase }

/-- The swap of an accepted COMMIT and the start of its drain (R93 to R96); a drain whose starting count is
0 ends at once (R94). -/
def takeSwap (s : State) : State :=
  let tracker := s.tracker.addFences s
  let swapped := { s with
    steering := s.steering.swap
    tracker := tracker
    ports := ⟨s.ports.u.placeFence .u (s.unit .u), s.ports.d.placeFence .d (s.unit .d)⟩
    commit := s.commit.start s tracker.entries.length }
  let d := settleDrain swapped
  clearAllMarks (raiseList d.2 d.1)

/-- COMMIT (R92): refused BUSY with detail DRAINING 1 or COOLING 2, or accepted with the new generation as
its value. -/
def runCommit : CommandRun := fun s =>
  if s.commit.state = .draining then (⟨.busy, 1⟩, s)
  else if coolingIndicator s then (⟨.busy, 2⟩, s)
  else
    let s' := takeSwap s
    (⟨.accepted, s'.generation.setWidth 32⟩, s')

/-- FORCE_DRAIN taken while DRAINING: the forced mark is set, the tracker acts on the entries of the drain
generation, and the drain ends if none remains (R102, R67). -/
def forceDrain (s : State) : State :=
  let fate := forceFate s.commit.drainGeneration s.events
  let rs := removals fate s.tracker.entries
  let t := s.tracker.settle s.timebase fate
  let c := (rs.foldl Commit.takeReport { s.commit with forced := true })
  let d := settleDrain { setTracker t s with
    events := s.events + 1
    commit := { c with remaining := t.ofGeneration c.drainGeneration } }
  raiseList d.2 d.1

/-- FORCE_DRAIN (R102). -/
def runForceDrain : CommandRun := fun s =>
  if s.commit.state = .draining then
    let s' := forceDrain s
    (⟨.done, BitVec.ofNat 32 s'.commit.remaining⟩, s')
  else (refusal .notDraining, s)

/-! ### DISCARD -/

/-- DISCARD (R76). -/
def runDiscard (body : List Byte) : CommandRun := fun s =>
  let id := byteAt body 0
  if id = 0 then (refusal .badField, s)
  else
    match s.hold.findHeld id with
    | none => (refusal .noHold, s)
    | some h => (doneResult, refuseHeld h .refused s)

/-! ### SET_PARAM -/

def setParams (ps : Params) (s : State) : State := setMgmt { s.mgmt with params := ps } s

/-- Whether an entry targets a unit on a port (R124). -/
def Entry.targets (e : Entry) (p : Port) (n : UnitNo) : Bool :=
  e.target = some n && e.egressPorts.contains p

/-- Whether a change of a port's bridge unit to `n` breaks a condition of R124. -/
def unitBarred (p : Port) (n : UnitNo) (s : State) : Bool :=
  (s.steering.active.any fun a => a.entry.targets p n)
    || (s.steering.staging.any fun e => e.targets p n)
    || s.steering.defaults.get (otherPort p) = .pass n
    || (p = .u && s.mgmt.params.noticeTarget.unit = n)

/-- A parameter takes a value, where the conditions of R123 and R124 hold; a value equal to the one in
force is accepted and changes nothing. A change of a default action or bridge unit clears the wait marks
(R30). -/
def setParam (v : ParamValue) : CommandRun := fun s =>
  let ps := s.mgmt.params
  match v with
  | .replyTimeout t => (doneResult, setParams { ps with replyTimeout := t } s)
  | .holdLimit t => (doneResult, setParams { ps with holdLimit := t } s)
  | .default p a =>
    if a = .pass (s.unit (otherPort p)) then (refusal .badField, s)
    else if s.steering.defaults.get p = a then (doneResult, s)
    else
      (doneResult, clearAllMarks { s with
        steering := { s.steering with defaults := s.steering.defaults.set p a } })
  | .noticeTarget t =>
    if t.unit = ps.unit.u then (refusal .badField, s)
    else (doneResult, setParams { ps with noticeTarget := t } s)
  | .unit p n =>
    if ps.unit.get p = n then (doneResult, s)
    else if unitBarred p n s then (refusal .badField, s)
    else (doneResult, clearAllMarks (setParams { ps with unit := ps.unit.set p n } s))
  | .linkPref p o => (doneResult, setParams { ps with linkPref := ps.linkPref.set p o } s)

/-- SET_PARAM (R123). -/
def runSetParam (body : List Byte) : CommandRun := fun s =>
  match paramOf body with
  | none => (refusal .badField, s)
  | some v => setParam v s

/-! ### The aperture, the managers and the links -/

/-- SET_APERTURE: the new base is recorded as a pending move. A base equal to the one in force changes
nothing, but that it takes the place of a move an earlier member of its batch made pending (R109;
notes/assumptions/21.md). -/
def runSetAperture (body : List Byte) : CommandRun := fun s =>
  let base : Addr := BitVec.ofNat 48 (field body 0 6)
  if base.toNat % 0x10000 = 0 ∧ base.toNat + 0x10000 ≤ 2 ^ 48 then
    if base = s.mgmt.apertureBase ∧ s.mgmt.pendingBase = none then (doneResult, s)
    else (doneResult, setMgmt { s.mgmt with pendingBase := some base } s)
  else (refusal .badField, s)

/-- SET_MANAGERS (R115). -/
def runSetManagers (body : List Byte) : CommandRun := fun s =>
  let set : UnitSet := BitVec.ofNat 32 (field body 0 4)
  if s.mgmt.locked then (refusal .locked, s)
  else if set = 0 then (refusal .badField, s)
  else (doneResult, setMgmt { s.mgmt with managers := set } s)

/-- LOCK_MANAGERS (R115). -/
def runLockManagers : CommandRun := fun s =>
  (doneResult, setMgmt { s.mgmt with locked := true } s)

/-- LINK_RESTART: a FAULTED port D enters TRAINING (R125). -/
def runLinkRestart (body : List Byte) : CommandRun := fun s =>
  if portOfCode (byteAt body 0) = some .d ∧ (s.port .d).state = .faulted then
    (doneResult, enterTraining .d s)
  else (refusal .badField, s)

/-- NOP (R126). -/
def runNop : CommandRun := fun s => (doneResult, s)

/-! ### The head of the command queue -/

/-- The Management Unit takes a single command at the head of the command queue: the command is carried
out and the slot goes to ANSWER_READY (R116, R120). A head that is not that command is not taken. -/
def takeCommand (code : CommandCode) (run : List Byte → CommandRun) (s : State) : State :=
  match headCommand s with
  | some (some (c, body)) =>
    if c = code then
      let r := run body s
      answerHead r.1 (singleIndex r.1) r.2
    else s
  | _ => s

/-- A single RELEASE at the head: its result, or EXECUTING until the release ends (R77, R116). -/
def takeRelease (s : State) : State :=
  match headCommand s with
  | some (some (.release, body)) =>
    match startRelease body s with
    | .finished r s' => answerHead r (singleIndex r) s'
    | .suspended s' => setHeadState .executing s'
  | _ => s

/-- WARM_RESET at the head: the reply is formed, and nothing is reset yet (R127). -/
def takeWarmReset (s : State) : State :=
  match headCommand s with
  | some (some (.warmReset, _)) =>
    setHeadState (.answerReady { commandReply doneResult 0 with warm := true }) s
  | _ => s

/-- A command write that cannot be parsed (R119). -/
def takeMalformed (s : State) : State :=
  match headCommand s with
  | some none => answerHead (refusal .malformed) 1 s
  | _ => s

/-- An access outside the aperture map (R110). -/
def takeUnsupported (s : State) : State :=
  match headAccess s with
  | some .unsupported => setHeadState (.answerReady ⟨.unsupported, [], false⟩) s
  | _ => s

/-- The APERTURE_MISUSE notice of an access from a unit outside the manager set, its detail NOT_MANAGER
(R114). -/
def notManagerNotice (slot : CommandSlot) (s : State) : NoticeReq :=
  { kind := .apertureMisuse, port := some .u, unit := slot.source, tag := slot.tag
    address := slot.address, label := 0, generation := s.generation, detail := 2 }

/-- An access from a unit outside the manager set (R114). -/
def takeNotManager (s : State) : State :=
  match waitingHead s, headAccess s with
  | some slot, some .notManager =>
    setHeadState (.answerReady ⟨.refused, [], false⟩) (raise (notManagerNotice slot s) s)
  | _, _ => s

/-! ### BATCH (R121, R122) -/

/-- A command carried out on its own or as a member of a batch; a WARM_RESET or BATCH member is not
allowed (R122). -/
def runCommand (code : CommandCode) (body : List Byte) (s : State) : Run :=
  let fin := fun (r : Result × State) => Run.finished r.1 r.2
  match code with
  | .nop => fin (runNop s)
  | .insert => fin (runInsert body s)
  | .remove => fin (runRemove body s)
  | .modify => fin (runModify body s)
  | .move => fin (runMove body s)
  | .clearStaging => fin (runClearStaging s)
  | .commit => fin (runCommit s)
  | .forceDrain => fin (runForceDrain s)
  | .release => startRelease body s
  | .discard => fin (runDiscard body s)
  | .setParam => fin (runSetParam body s)
  | .setAperture => fin (runSetAperture body s)
  | .setManagers => fin (runSetManagers body s)
  | .lockManagers => fin (runLockManagers s)
  | .linkRestart => fin (runLinkRestart body s)
  | .warmReset => .finished (refusal .notAllowed) s
  | .batch => .finished (refusal .notAllowed) s

/-- A member of a batch: a COMMIT that is not the last member is not allowed (R122). -/
def runMember (code : CommandCode) (body : List Byte) (last : Bool) (s : State) : Run :=
  if code = .commit ∧ last = false then .finished (refusal .notAllowed) s
  else runCommand code body s

/-- The execution pass, for at most `members` members: it stops at the first failure, at the end, or at a
RELEASE, which holds the batch for as long as its release lasts (R121). -/
def runMembers : Nat → BatchRun → State → State
  | 0, run, s => setHeadState (.executingBatch run) s
  | members + 1, run, s =>
    match run.todo with
    | [] => answerHead run.last 0 s
    | (code, body) :: rest =>
      match runMember code body rest.isEmpty s with
      | .finished r s' =>
        if r.code.ok then
          if rest = [] then answerHead r 0 s'
          else runMembers members ⟨rest, run.index + 1, r⟩ s'
        else answerHead r run.index s'
      | .suspended s' => setHeadState (.executingBatch { run with todo := rest }) s'

/-- A BATCH at the head: the parse pass, and then the execution pass; a batch already executing goes on
with its next members (R121; notes/assumptions/11.md). -/
def takeBatch (members : Nat) (s : State) : State :=
  match headCommand s with
  | some (some (.batch, body)) =>
    match parseMembers body with
    | .failed index => answerHead (refusal .malformed) index s
    | .parsed todo => runMembers members ⟨todo, 1, doneResult⟩ s
  | _ =>
    match s.hold.release, s.mgmt.queue with
    | none, slot :: _ =>
      match slot.state with
      | .executingBatch run => runMembers members run s
      | _ => s
    | _, _ => s

/-! ### The warm reset (R127, R128) -/

/-- The Management Unit's own warm reset: four parameters return to their cold values, and the accesses
left in the command queue turn ABORTING (R128). -/
def Management.warmReset (m : Management) : Management :=
  { m with
    queue := m.queue.map fun slot => { slot with state := .aborting }
    params := { m.params with
      replyTimeout := Params.cold.replyTimeout
      holdLimit := Params.cold.holdLimit
      linkPref := Params.cold.linkPref } }

/-- A fence state at a warm reset that ends a drain (R103). -/
def FenceState.abandon : FenceState → FenceState
  | .outstanding => .aborted
  | st => st

/-- The commit controller's warm reset: a drain in progress ends ABANDONED (R103). -/
def commitWarmReset (s : State) : State × List NoticeReq :=
  if s.commit.state = .draining then
    ({ s with commit := { s.commit with
        state := .idle
        remaining := 0
        fences := s.commit.fences.map FenceState.abandon
        lastOutcome := .abandoned
        done := s.timebase } },
      [commitDoneNotice s.commit.drainGeneration .abandoned])
  else (s, [])

/-- The tracker's warm reset, under the generation the Steering Engine has made current; its removals are
not reported (R68). -/
def trackerWarmReset (s : State) : State :=
  { setTracker (s.tracker.settle s.timebase (warmFate s.generation s.events)) s with
    events := s.events + 1 }

/-- The WARM_RESET_DONE notice (R127, R130). -/
def warmResetNotice (gen : Gen) : NoticeReq :=
  { kind := .warmResetDone, port := none, unit := 0, tag := 0, address := 0, label := 0
    generation := gen, detail := 0 }

/-- The warm reset: the Management Unit's own event, the Steering Engine's, then the other blocks', and
the WARM_RESET_DONE notice after them (R127). -/
def warmResetAll (s : State) : State :=
  let s := setMgmt s.mgmt.warmReset s
  let s := { s with steering := s.steering.warmReset }
  let s := dispatcherWarmReset .d (dispatcherWarmReset .u s)
  let s := trackerWarmReset s
  let h := holdWarmReset s
  let c := commitWarmReset h.1
  raise (warmResetNotice c.1.generation) (raiseTogether [h.2, c.2] c.1)

/-! ### Placing the reply of the head (R116, R117) -/

/-- The reply packet of an access (R117). -/
def accessPacket (slot : CommandSlot) (source : UnitNo) (status : ReplyStatus)
    (payload : List Byte) : Packet where
  kind := .reply
  source := source
  dest := slot.source
  tag := slot.tag
  length := BitVec.ofNat 16 payload.length
  status := status.code
  address := 0
  payload := payload

/-- A waiting area read is executed: its bytes are captured and the slot goes to ANSWER_READY (R111, R112;
notes/assumptions/9.md). R112 lets the groups of the status block be taken at different moments of the
read's execution; here every group is taken at this one event. DESIGN CHOICE (notes/assumptions/39.md). -/
def captureRead (s : State) : State :=
  match headAccess s with
  | some (.read area o n) => setHeadState (.answerReady ⟨.ok, readArea area o n s, false⟩) s
  | _ => s

/-- The slot of the head is freed: a pending move takes effect, and Dispatcher U's wait marks for a command
queue slot are cleared (R109, R116). -/
def freeHead (s : State) : State :=
  let m := s.mgmt
  clearMarks .commandSlot
    (setMgmt
      { m with
        queue := m.queue.tail
        apertureBase := m.pendingBase.getD m.apertureBase
        pendingBase := none } s)

/-- The reply of the head enters U's C transmit queue, and its slot is freed (R116). -/
def placeReply (slot : CommandSlot) (status : ReplyStatus) (payload : List Byte) (s : State) : State :=
  freeHead (enqueue .u .c (accessPacket slot (s.unit .u) status payload) s)

/-- The reply of the head is offered to U's C transmit queue; placing the reply of a WARM_RESET performs
the warm reset (R116, R127). -/
def offerReply (s : State) : State :=
  match s.mgmt.queue with
  | [] => s
  | slot :: _ =>
    if offerAnswer .u .c s = .accepted then
      match slot.state with
      | .answerReady r =>
        let s' := placeReply slot r.status r.payload s
        if r.warm then warmResetAll s' else s'
      | .aborting => placeReply slot .aborted [] s
      | _ => s
    else s

/-! ### Notice pops and emission (R113, R134) -/

/-- The record a pop of an empty queue returns (R137). -/
def emptyRecord (s : State) : Notice where
  req := { kind := .none, port := none, unit := 0, tag := 0, address := 0, label := 0
           generation := 0, detail := 0 }
  seq := s.notices.nextSeq
  time := s.timebase
  droppedBefore := s.notices.dropped

/-- The head record leaves the notice queue. -/
def popNotice (s : State) : State :=
  { s with notices := { s.notices with queue := s.notices.queue.tail } }

/-- The access at the head when it is a notice pop, waiting or already popping (R113, R116). -/
def popHead (s : State) : Option CommandSlot :=
  match s.mgmt.queue with
  | [] => none
  | slot :: _ =>
    if slot.state = .popping then some slot
    else if headAccess s = some .pop then some slot
    else none

/-- A notice pop: the oldest record and its reply move at one event, or the pop waits at the head (R113). -/
def takePop (s : State) : State :=
  match popHead s with
  | none => s
  | some slot =>
    if offerAnswer .u .c s = .accepted then
      placeReply slot .ok (noticeRecord (s.notices.queue.headD (emptyRecord s))) (popNotice s)
    else setHeadState .popping s

/-- The notice write of a record (R135). -/
def noticeWrite (n : Notice) (unit : UnitNo) (target : NoticeTarget) : Packet where
  kind := .write
  source := unit
  dest := target.unit
  tag := 0
  length := 32
  status := 0
  address := target.address
  payload := noticeRecord n

/-- The emission offer is taken by U's P transmit queue, which leaves it waiting when it is full (R134). -/
def emitNotice (s : State) : State :=
  match emissionOffer s with
  | none => s
  | some n =>
    if offerAnswer .u .p s = .accepted then
      popNotice (enqueue .u .p (noticeWrite n (s.unit .u) s.mgmt.params.noticeTarget) s)
    else s

end Sys2Proof.Machine
end

