-- ==== Sys2Proof/Machine/CommandEvents.lean ====
section
/-! DEFINITION. The meanings of the commands the Management Unit executes and of its other events: NOP to
NOTICE_EMISSION of the table. A command's event takes the access at the head of the command queue when that
is a command write carrying it, from a manager, and nothing is executing; otherwise it changes nothing
(notes/assumptions/1.md). -/

namespace Sys2Proof.Machine

/-- NOP (R126). -/
def execNop (s : State) : StepOutcome := .next (takeCommand .nop (fun _ => runNop) s)

/-- INSERT (R85). -/
def execInsert (s : State) : StepOutcome := .next (takeCommand .insert runInsert s)

/-- REMOVE (R86). -/
def execRemove (s : State) : StepOutcome := .next (takeCommand .remove runRemove s)

/-- MODIFY (R87). -/
def execModify (s : State) : StepOutcome := .next (takeCommand .modify runModify s)

/-- MOVE (R88). -/
def execMove (s : State) : StepOutcome := .next (takeCommand .move runMove s)

/-- CLEAR_STAGING (R89). -/
def execClearStaging (s : State) : StepOutcome :=
  .next (takeCommand .clearStaging (fun _ => runClearStaging) s)

/-- COMMIT (R92). -/
def execCommit (s : State) : StepOutcome := .next (takeCommand .commit (fun _ => runCommit) s)

/-- FORCE_DRAIN (R102). -/
def execForceDrain (s : State) : StepOutcome :=
  .next (takeCommand .forceDrain (fun _ => runForceDrain) s)

/-- RELEASE (R77). -/
def execRelease (s : State) : StepOutcome := .next (takeRelease s)

/-- DISCARD (R76). -/
def execDiscard (s : State) : StepOutcome := .next (takeCommand .discard runDiscard s)

/-- SET_PARAM (R123). -/
def execSetParam (s : State) : StepOutcome := .next (takeCommand .setParam runSetParam s)

/-- SET_APERTURE (R109). -/
def execSetAperture (s : State) : StepOutcome := .next (takeCommand .setAperture runSetAperture s)

/-- SET_MANAGERS (R115). -/
def execSetManagers (s : State) : StepOutcome := .next (takeCommand .setManagers runSetManagers s)

/-- LOCK_MANAGERS (R115). -/
def execLockManagers (s : State) : StepOutcome :=
  .next (takeCommand .lockManagers (fun _ => runLockManagers) s)

/-- LINK_RESTART (R125). -/
def execLinkRestart (s : State) : StepOutcome := .next (takeCommand .linkRestart runLinkRestart s)

/-- WARM_RESET (R127): the reply is formed; the reset follows its placement. -/
def execWarmReset (s : State) : StepOutcome := .next (takeWarmReset s)

/-- BATCH (R121). -/
def execBatch (members : Nat) (s : State) : StepOutcome := .next (takeBatch members s)

/-- MALFORMED_COMMAND_BLOCK (R119). -/
def execMalformedCommandBlock (s : State) : StepOutcome := .next (takeMalformed s)

/-- UNSUPPORTED_APERTURE_ACCESS (R110). -/
def execUnsupportedApertureAccess (s : State) : StepOutcome := .next (takeUnsupported s)

/-- NOT_MANAGER_REFUSAL (R114). -/
def execNotManagerRefusal (s : State) : StepOutcome := .next (takeNotManager s)

/-- NOTICE_POP (R113). -/
def execNoticePop (s : State) : StepOutcome := .next (takePop s)

/-- COMMAND_REPLY_PLACEMENT (R116): a waiting area read is captured first (R111). -/
def execCommandReplyPlacement (s : State) : StepOutcome := .next (offerReply (captureRead s))

/-- NOTICE_EMISSION (R134). -/
def execNoticeEmission (s : State) : StepOutcome := .next (emitNotice s)

end Sys2Proof.Machine
end

