-- ==== Sys2Proof/Machine/DispatchEvents.lean ====
section
/-! DEFINITION. The meanings of the dispatch commands: DISPATCH to REPLY_TAKE of the table. An event that
its own conditions do not admit in the state changes nothing (notes/assumptions/1.md). -/

namespace Sys2Proof.Machine

/-- DISPATCH (R26). -/
def execDispatch (p : Port) (s : State) : StepOutcome :=
  .next (dispatchHead p s)

/-- HOLD_OFFER (R73). -/
def execHoldOffer (p : Port) (s : State) : StepOutcome :=
  .next (dispatcherHoldOffer p s)

/-- P_TRANSMIT_OFFER (R34). -/
def execPTransmitOffer (party : Party) (s : State) : StepOutcome :=
  .next (match party with
    | .dispatcher p => dispatcherPOffer p s
    | .hold => holdPOffer s)

/-- TAG_ALLOCATION (R50). -/
def execTagAllocation (party : Party) (s : State) : StepOutcome :=
  .next (match party with
    | .dispatcher p => dispatcherAllocation p s
    | .hold => holdAllocation s)

/-- N_TRANSMIT_PLACEMENT (R35). -/
def execNTransmitPlacement (party : Party) (s : State) : StepOutcome :=
  .next (match party with
    | .dispatcher p => dispatcherPlacement p s
    | .hold => holdPlacement s)

/-- HIT_COUNT_REPORT (R23): the oldest report of a party is taken. That a party's reports are taken first
in, first out is a DESIGN CHOICE (notes/assumptions/42.md). -/
def execHitCountReport (party : Party) (s : State) : StepOutcome :=
  .next (match s.steering.reportsOf party with
    | [] => s
    | r :: _ => { s with steering := (s.steering.count r).popReport party })

/-- REPLY_PRESENTATION (R51). -/
def execReplyPresentation (p : Port) (s : State) : StepOutcome :=
  .next (match (s.dispatcher p).work, headPacket p .c s with
    | some .present, some reply => presentReply p reply s
    | _, _ => s)

/-- REPLY_TAKE (R54). -/
def execReplyTake (p : Port) (s : State) : StepOutcome :=
  .next (match (s.dispatcher p).work, headPacket p .c s with
    | some (.take e), some reply => takeReply p reply e s
    | _, _ => s)

end Sys2Proof.Machine
end

