-- ==== Sys2Proof/Machine/LinkEvents.lean ====
section
/-! DEFINITION. The meanings of the reset and link commands: COLD_RESET to TRANSMIT_PACKET of the table. An
event that its own conditions do not admit in the state changes nothing (notes/assumptions/1.md). -/

namespace Sys2Proof.Machine

/-- The aperture base the strap places (R108). -/
def strapBase (strap : BitVec 4) : Addr :=
  0xFFF000000000 + strap.setWidth 48 * 0x10000

/-- COLD_RESET (R169): every block returns to its cold values, whatever it was doing. -/
def execColdReset (strap : BitVec 4) (s : State) : StepOutcome :=
  .next { State.reset with
    mgmt := { Management.cold with apertureBase := strapBase strap }
    events := s.events
    pending := s.pending }

/-- REFERENCE_CLOCK_STABLE (R169): a port in OFFLINE enters TRAINING. -/
def execReferenceClockStable (p : Port) (s : State) : StepOutcome :=
  .next (if (s.port p).state = .offline then enterTraining p s else s)

/-- SEND_TRAIN (R171). -/
def execSendTrain (p : Port) (s : State) : StepOutcome :=
  .next (s.setPort p (s.port p).sendTrain)

/-- SPEED_RECEIVED (R172). -/
def execSpeedReceived (p : Port) (wire : List Byte) (s : State) : StepOutcome :=
  .next (match readWire wire with
    | .speed mode lanes rate => arriveSpeed p mode lanes rate s
    | _ => s)

/-- IDENT_RECEIVED (R173). -/
def execIdentReceived (p : Port) (wire : List Byte) (s : State) : StepOutcome :=
  .next (match readWire wire with
    | .ident unit free last => arriveIdent p unit free last s
    | _ => s)

/-- READY_RECEIVED (R174): the partner's READY, or a first good packet or ACK in the READY phase. -/
def execReadyReceived (p : Port) (wire : List Byte) (s : State) : StepOutcome :=
  .next (match readWire wire with
    | .ready => arriveReady p s
    | .traffic pkt seq => if (readyAttempt p s).isSome then arriveTraffic p pkt seq s else s
    | .ack seq credit => if (readyAttempt p s).isSome then arriveAck p seq credit s else s
    | _ => s)

/-- The attempt in progress at a port, when its deadline passes a test against the timebase. -/
def dueAttempt (test : Time → Time → Bool) (p : Port) (s : State) : Option Attempt :=
  (s.port p).attempt.filter fun a => test s.timebase a.deadline

/-- ATTEMPT_DEADLINE_EXPIRY (R175). -/
def execAttemptDeadlineExpiry (p : Port) (s : State) : StepOutcome :=
  .next (match dueAttempt reached p s with
    | some a => failAttempt p a s
    | none => s)

/-- Whether port U is in its hold-off and the hold-off deadline passes a test (R182). -/
def dueHoldOff (test : Time → Time → Bool) (s : State) : Bool :=
  (s.port .u).state = .faulted && (s.port .u).holdOff.any fun d => test s.timebase d

/-- HOLD_OFF_EXPIRY (R182). -/
def execHoldOffExpiry (s : State) : StepOutcome :=
  .next (if dueHoldOff reached s then enterTraining .u s else s)

/-- RECEIVE_PACKET (R177). -/
def execReceivePacket (p : Port) (wire : List Byte) (s : State) : StepOutcome :=
  .next (match readWire wire with
    | .traffic pkt seq => arriveTraffic p pkt seq s
    | .damaged => if (s.port p).state = .up then takeDamaged p s else s
    | _ => s)

/-- ACK_RECEIVED (R144, R167). -/
def execAckReceived (p : Port) (wire : List Byte) (s : State) : StepOutcome :=
  .next (match readWire wire with
    | .ack seq credit => arriveAck p seq credit s
    | _ => s)

/-- REPLAY_REQ_RECEIVED (R178, R167). -/
def execReplayReqReceived (p : Port) (wire : List Byte) (s : State) : StepOutcome :=
  .next (match readWire wire with
    | .replayReq seq => arriveReplayReq p seq s
    | _ => s)

/-- Whether a port is UP and its acknowledgement deadline passes a test (R179). -/
def dueAck (test : Time → Time → Bool) (p : Port) (s : State) : Bool :=
  (s.port p).state = .up && (s.port p).ackDeadline.any fun d => test s.timebase d

/-- ACK_DEADLINE_EXPIRY (R179). -/
def execAckDeadlineExpiry (p : Port) (s : State) : StepOutcome :=
  .next (if dueAck reached p s then
      if (s.port p).replayStore = [] then s.setPort p { s.port p with ackDeadline := none }
      else enterRetraining p s
    else s)

/-- SEND_ACK (R142). -/
def execSendAck (p : Port) (s : State) : StepOutcome :=
  .next (if (s.port p).state = .up ∧ (s.port p).ackOwed = true then
      s.setPort p (s.port p).sendAck
    else s)

/-- SEND_REPLAY_REQ (R177): the oldest of the REPLAY_REQs that are due goes. -/
def execSendReplayReq (p : Port) (s : State) : StepOutcome :=
  .next (match (s.port p).state, (s.port p).replayReqs with
    | .up, seq :: later =>
      s.setPort p { (s.port p).send (replayReqBytes seq) with replayReqs := later }
    | _, _ => s)

/-- REPLAY_RESEND (R178): a replay goes behind link control (R150). -/
def execReplayResend (p : Port) (s : State) : StepOutcome :=
  .next (if (s.port p).state = .up ∧ (s.port p).controlDue = false then
      s.setPort p (s.port p).resend
    else s)

/-- TRANSMIT_PACKET (R151). -/
def execTransmitPacket (p : Port) (s : State) : StepOutcome :=
  .next (transmit p s)

end Sys2Proof.Machine
end

