-- ==== Sys2Proof/Machine/TrackerEvents.lean ====
section
/-! DEFINITION. The meanings of the tracker's and the Hold Queue's own events: ENTRY_EXPIRY to
HOLD_ANSWER_PLACEMENT, RELEASE_WAIT_END and RELEASE_STEPS of the table. An event that its own conditions do
not admit in the state changes nothing (notes/assumptions/1.md). -/

namespace Sys2Proof.Machine

/-- The AWAITING READ, WRITE_ACK or FENCE entry of a tag, when its deadline passes a test (R59). -/
def dueAwaiting (test : Time → Time → Bool) (tag : Tag) (s : State) : Option TrackEntry :=
  (s.tracker.find tag).filter fun e =>
    e.state = .awaiting && e.kind ≠ .drainFence && test s.timebase e.deadline

/-- ENTRY_EXPIRY (R59). -/
def execEntryExpiry (tag : Tag) (s : State) : StepOutcome :=
  .next (match dueAwaiting reached tag s with
    | some e => expireAwaiting e s
    | none => s)

/-- The drain fence entry of a port, when its deadline passes a test (R60). -/
def dueFence (test : Time → Time → Bool) (p : Port) (s : State) : Option TrackEntry :=
  (s.tracker.find (fenceTag p)).filter fun e =>
    e.state = .awaiting && e.kind = .drainFence && test s.timebase e.deadline

/-- DRAIN_FENCE_EXPIRY (R60). -/
def execDrainFenceExpiry (p : Port) (s : State) : StepOutcome :=
  .next (match dueFence reached p s with
    | some e => coolEntry e .timeout [timeoutNotice e] s
    | none => s)

/-- The ORPHANED entry of a tag, when its deadline passes a test (R61). -/
def dueOrphan (test : Time → Time → Bool) (tag : Tag) (s : State) : Option TrackEntry :=
  (s.tracker.find tag).filter fun e => e.state = .orphaned && test s.timebase e.deadline

/-- ORPHANED_EXPIRY (R61): no reply is made and no notice is raised for the entry. -/
def execOrphanedExpiry (tag : Tag) (s : State) : StepOutcome :=
  .next (match dueOrphan reached tag s with
    | some e => coolEntry e .linkDown [] s
    | none => s)

/-- CLOSING_REPLY_PLACEMENT (R61). -/
def execClosingReplyPlacement (p : Port) (s : State) : StepOutcome :=
  .next (placeClosing p s)

/-- Whether a tag cools and its release time passes a test (R46). -/
def dueCooling (test : Time → Time → Bool) (tag : Tag) (s : State) : Bool :=
  s.tracker.cooling.any fun m => m.tag = tag && test s.timebase m.release

/-- COOLING_EXPIRY (R46). -/
def execCoolingExpiry (tag : Tag) (s : State) : StepOutcome :=
  .next (if dueCooling reached tag s then endCooling tag s else s)

/-- The HELD record of an id, when it is not in release steps and its deadline passes a test (R74, R78). -/
def dueHeld (test : Time → Time → Bool) (id : HoldId) (s : State) : Option HoldSlot :=
  (s.hold.findHeld id).filter fun h =>
    match h.state with
    | .held deadline => test s.timebase deadline && !s.hold.inSteps id
    | .answering _ _ => false

/-- HOLD_EXPIRY (R74). -/
def execHoldExpiry (id : HoldId) (s : State) : StepOutcome :=
  .next (match dueHeld reached id s with
    | some h => expireHeld h s
    | none => s)

/-- HOLD_ANSWER_PLACEMENT (R75). -/
def execHoldAnswerPlacement (p : Port) (s : State) : StepOutcome :=
  .next (placeAnswer p s)

/-- RELEASE_WAIT_END (R77), a command of its own after the event by which the wait is over. DESIGN CHOICE
of the grain (notes/assumptions/45.md). -/
def execReleaseWaitEnd (s : State) : StepOutcome :=
  .next (endWait s)

/-- RELEASE_STEPS (R78). -/
def execReleaseSteps (s : State) : StepOutcome :=
  .next (nextReleaseStep s)

end Sys2Proof.Machine
end

