-- ==== Sys2Proof/Machine/Dispatch.lean ====
section
/-! DEFINITION. The meaning of every command: one arm for each row of spec/opcode_table.json. -/

namespace Sys2Proof.Machine

def exec (i : Instr) (s : State) : Host.Outcome State Fault Refusal :=
  match i with
  | .coldReset strap => Sys2Proof.Machine.execColdReset strap s
  | .referenceClockStable p => Sys2Proof.Machine.execReferenceClockStable p s
  | .sendTrain p => Sys2Proof.Machine.execSendTrain p s
  | .speedReceived p wire => Sys2Proof.Machine.execSpeedReceived p wire s
  | .identReceived p wire => Sys2Proof.Machine.execIdentReceived p wire s
  | .readyReceived p wire => Sys2Proof.Machine.execReadyReceived p wire s
  | .attemptDeadlineExpiry p => Sys2Proof.Machine.execAttemptDeadlineExpiry p s
  | .holdOffExpiry => Sys2Proof.Machine.execHoldOffExpiry s
  | .receivePacket p wire => Sys2Proof.Machine.execReceivePacket p wire s
  | .ackReceived p wire => Sys2Proof.Machine.execAckReceived p wire s
  | .replayReqReceived p wire => Sys2Proof.Machine.execReplayReqReceived p wire s
  | .ackDeadlineExpiry p => Sys2Proof.Machine.execAckDeadlineExpiry p s
  | .sendAck p => Sys2Proof.Machine.execSendAck p s
  | .sendReplayReq p => Sys2Proof.Machine.execSendReplayReq p s
  | .replayResend p => Sys2Proof.Machine.execReplayResend p s
  | .transmitPacket p => Sys2Proof.Machine.execTransmitPacket p s
  | .dispatch p => Sys2Proof.Machine.execDispatch p s
  | .holdOffer p => Sys2Proof.Machine.execHoldOffer p s
  | .pTransmitOffer party => Sys2Proof.Machine.execPTransmitOffer party s
  | .tagAllocation party => Sys2Proof.Machine.execTagAllocation party s
  | .nTransmitPlacement party => Sys2Proof.Machine.execNTransmitPlacement party s
  | .hitCountReport party => Sys2Proof.Machine.execHitCountReport party s
  | .replyPresentation p => Sys2Proof.Machine.execReplyPresentation p s
  | .replyTake p => Sys2Proof.Machine.execReplyTake p s
  | .entryExpiry tag => Sys2Proof.Machine.execEntryExpiry tag s
  | .drainFenceExpiry p => Sys2Proof.Machine.execDrainFenceExpiry p s
  | .orphanedExpiry tag => Sys2Proof.Machine.execOrphanedExpiry tag s
  | .closingReplyPlacement p => Sys2Proof.Machine.execClosingReplyPlacement p s
  | .coolingExpiry tag => Sys2Proof.Machine.execCoolingExpiry tag s
  | .holdExpiry id => Sys2Proof.Machine.execHoldExpiry id s
  | .holdAnswerPlacement p => Sys2Proof.Machine.execHoldAnswerPlacement p s
  | .nop => Sys2Proof.Machine.execNop s
  | .insert => Sys2Proof.Machine.execInsert s
  | .remove => Sys2Proof.Machine.execRemove s
  | .modify => Sys2Proof.Machine.execModify s
  | .move => Sys2Proof.Machine.execMove s
  | .clearStaging => Sys2Proof.Machine.execClearStaging s
  | .commit => Sys2Proof.Machine.execCommit s
  | .forceDrain => Sys2Proof.Machine.execForceDrain s
  | .release => Sys2Proof.Machine.execRelease s
  | .releaseWaitEnd => Sys2Proof.Machine.execReleaseWaitEnd s
  | .releaseSteps => Sys2Proof.Machine.execReleaseSteps s
  | .discard => Sys2Proof.Machine.execDiscard s
  | .setParam => Sys2Proof.Machine.execSetParam s
  | .setAperture => Sys2Proof.Machine.execSetAperture s
  | .setManagers => Sys2Proof.Machine.execSetManagers s
  | .lockManagers => Sys2Proof.Machine.execLockManagers s
  | .linkRestart => Sys2Proof.Machine.execLinkRestart s
  | .warmReset => Sys2Proof.Machine.execWarmReset s
  | .batch members => Sys2Proof.Machine.execBatch members s
  | .malformedCommandBlock => Sys2Proof.Machine.execMalformedCommandBlock s
  | .unsupportedApertureAccess => Sys2Proof.Machine.execUnsupportedApertureAccess s
  | .notManagerRefusal => Sys2Proof.Machine.execNotManagerRefusal s
  | .noticePop => Sys2Proof.Machine.execNoticePop s
  | .commandReplyPlacement => Sys2Proof.Machine.execCommandReplyPlacement s
  | .noticeEmission => Sys2Proof.Machine.execNoticeEmission s

end Sys2Proof.Machine
end

