-- ==== Sys2Proof/Machine/Timebase.lean ====
section
/-! DEFINITION. The timebase when no command waits: it counts a microsecond, except that an expiry which has
waited as long after its deadline as the conventions allow is taken first (spec/00_scope.md, Section 5;
notes/assumptions/7.md). -/

namespace Sys2Proof.Machine

/-- The expiries of one port that a test finds due. -/
def duePortExpiries (test : Time → Time → Bool) (p : Port) (s : State) : List Instr :=
  (if (dueAttempt test p s).isSome then [.attemptDeadlineExpiry p] else [])
    ++ (if dueAck test p s then [.ackDeadlineExpiry p] else [])
    ++ (if (dueFence test p s).isSome then [.drainFenceExpiry p] else [])

/-- Every expiry that a test finds due, as the command that takes it. -/
def dueExpiries (test : Time → Time → Bool) (s : State) : List Instr :=
  duePortExpiries test .u s ++ duePortExpiries test .d s
    ++ (if dueHoldOff test s then [.holdOffExpiry] else [])
    ++ ((s.tracker.entries.map (·.tag)).filter fun t => (dueAwaiting test t s).isSome).map .entryExpiry
    ++ ((s.tracker.entries.map (·.tag)).filter fun t => (dueOrphan test t s).isSome).map
        .orphanedExpiry
    ++ ((s.tracker.cooling.map (·.tag)).filter fun t => dueCooling test t s).map .coolingExpiry
    ++ ((s.hold.slots.map (·.id)).filter fun id => (dueHeld test id s).isSome).map .holdExpiry

/-- The part when no command waits: an expiry at the limit of its tolerance is taken, and otherwise a
microsecond passes. -/
def tick (s : State) : StepOutcome :=
  match dueExpiries atLimit s with
  | [] => .next { s with timebase := s.timebase + 1 }
  | c :: _ => exec c s

end Sys2Proof.Machine
end

