-- ==== Sys2Proof/Safety.lean ====
section
/-! DEFINITION. Safe runs, in the terms claims use: what it means that the part goes on, the laws the guide
gives the part, and the states that the rules give a command, each written out from its rule. -/

namespace Sys2Proof

open Machine

/-! ### Runs -/

/-- The part goes on from a state: the step answers a next state, neither a fault nor a refusal. -/
def GoesOn (s : State) : Prop :=
  ∃ t, step s = .next t

/-- A property that every step keeps. -/
def KeptByStep (inv : State → Prop) : Prop :=
  ∀ s t, inv s → step s = .next t → inv t

/-! ### The words of the tables

Each says for itself what a table or a rule of spec/ lists; Sys2Proof/Laws/Words.lean holds it against the
model's own definition. -/

/-- A deadline is reached: the timebase, which wraps, lies less than half its range past it
(spec/00_scope.md, Section 5; the half range is the model's reading, notes/assumptions/7.md). -/
abbrev Reached (now deadline : Time) : Prop :=
  (now - deadline).toNat < 2 ^ 31

/-- A deadline was reached 50 µs ago or more, the most that an expiry waits (spec/00_scope.md, Section 5). -/
abbrev AtLimit (now deadline : Time) : Prop :=
  Reached now deadline ∧ 50 ≤ (now - deadline).toNat

/-- The channel of a packet kind (Table 9-1, R140): WRITE on P, REPLY on C, and every other kind on N. -/
def channelOf : PacketKind → Chan
  | .write => .p
  | .reply => .c
  | .writeAck | .read | .fence | .other _ => .n

/-- The slots of a channel's ingress queue and of its transmit queue (Table 8-1). -/
def slotsOf : Chan → Nat
  | .p => 16
  | .n => 16
  | .c => 32

/-- A port is OFFLINE, TRAINING or FAULTED: neither UP nor RETRAINING. -/
def portIsDown (p : Port) (s : State) : Bool :=
  match (s.ports.get p).state with
  | .up | .retraining => false
  | .offline | .training | .faulted => true

/-- The tag of a port's drain fence (R44). -/
def fenceTagOf : Port → Tag
  | .u => 126
  | .d => 127

/-- The tracker entry under a tag (R44). -/
def entryUnder (tag : Tag) (s : State) : Option TrackEntry :=
  s.tracker.entries.find? fun e => e.tag = tag

/-- A Hold Queue slot is HELD, not ANSWERING (R70). -/
def isHeld (h : HoldSlot) : Bool :=
  match h.state with
  | .held _ => true
  | .answering _ _ => false

/-- The HELD record under a hold id (R76, R77). -/
def heldUnder (id : HoldId) (s : State) : Option HoldSlot :=
  s.hold.slots.find? fun h => h.id = id && isHeld h

/-- The fence state that the report of a drain fence sets (R98). WITHDRAWN is of no fence: R35 hands back
requests alone, and the laws of the tracker keep fences out of placements. -/
def fenceStateOf : Cause → FenceState
  | .replied | .withdrawn => .answered
  | .timeout => .expired
  | .linkDown => .portDown
  | .aborted => .aborted

/-- The cause that the report of a CLOSING entry carries when its reply is placed (Table 3-3). -/
def causeOf : CloseStatus → Cause
  | .timeout => .timeout
  | .linkDown => .linkDown
  | .aborted => .aborted

/-- The reply status of a closing entry (R61). -/
def closingStatusReply : CloseStatus → ReplyStatus
  | .timeout => .timeout
  | .linkDown => .linkDown
  | .aborted => .aborted

/-- The reply status of an ANSWERING slot (Table 4-1, R75). -/
def holdReply : AnswerStatus → ReplyStatus
  | .refused => .refused
  | .boundary => .boundary
  | .linkDown => .linkDown
  | .aborted => .aborted

/-- The reply status codes (Table 9-3). -/
def statusByte : ReplyStatus → Byte
  | .ok => 0
  | .refused => 1
  | .boundary => 2
  | .timeout => 3
  | .aborted => 4
  | .linkDown => 5
  | .partnerError => 6
  | .unsupported => 7
  | .busy => 8

/-- The packet kind codes (Table 9-1). -/
def kindByte : PacketKind → Byte
  | .write => 1
  | .writeAck => 2
  | .read => 3
  | .fence => 4
  | .reply => 5
  | .other code => code

/-- The modes of a SPEED: NEW 1, RESUME 2 (Table 11-2). -/
def modeByte : Mode → Byte
  | .new => 1
  | .resume => 2

/-- The lanes of a width (R172). -/
def laneCount : Lanes → Nat
  | .x1 => 1
  | .x2 => 2
  | .x4 => 4

/-- The rate of a lane in Gbit/s (R172). -/
def gigabits : Rate → Nat
  | .g5 => 5
  | .g10 => 10
  | .g20 => 20

/-- The detail of a LINK_STATE notice: the link state code (Table 11-3). -/
def stateDetail : LinkState → BitVec 16
  | .offline => 1
  | .training => 2
  | .up => 3
  | .retraining => 4
  | .faulted => 5

/-- The detail of a COMMIT_DONE notice: the outcome code (Section 11.3). -/
def outcomeDetail : DrainOutcome → BitVec 16
  | .none => 0
  | .clean => 1
  | .late => 2
  | .forced => 3
  | .abandoned => 4

/-- The first offset of an area that is read, from the aperture base (Table 6-1). -/
def areaFirst : Area → Nat
  | .status => 0x1000
  | .active => 0x2000
  | .staging => 0x3000
  | .hold => 0x5000

/-- The last offset of an area that is read (Table 6-1). -/
def areaLast : Area → Nat
  | .status => 0x107F
  | .active => 0x2FFF
  | .staging => 0x3FFF
  | .hold => 0x51FF

/-! ### Effects that several rules share -/

/-- A notice is raised (R131). -/
def noticed (r : NoticeReq) (s : State) : State :=
  { s with notices := s.notices.take s.timebase r }

/-- Every wait mark is cleared (R30). -/
def unmarked (s : State) : State :=
  { s with dispatchers :=
    ⟨{ s.dispatchers.u with marks := ⟨[], [], []⟩ }, { s.dispatchers.d with marks := ⟨[], [], []⟩ }⟩ }

/-- A wait mark when a resource is freed: empty when it records the resource, and as it was otherwise. -/
def markAfter (r : Resource) (mark : List Resource) : List Resource :=
  if r ∈ mark then [] else mark

/-- A resource is freed: on both dispatchers, each wait mark that records it is cleared (R30). That a mark
records the very queue, pool or slot, and is cleared whole, is the model's reading
(notes/assumptions/16.md). -/
def resourceFreed (r : Resource) (s : State) : State :=
  let u := s.dispatchers.u
  let d := s.dispatchers.d
  { s with dispatchers :=
    ⟨{ u with marks := ⟨markAfter r u.marks.p, markAfter r u.marks.n, markAfter r u.marks.c⟩ },
     { d with marks := ⟨markAfter r d.marks.p, markAfter r d.marks.n, markAfter r d.marks.c⟩ }⟩ }

/-- A port takes a new value. -/
def withPort (p : Port) (lp : LinkPort) (s : State) : State :=
  { s with ports := s.ports.set p lp }

/-- The LINK_STATE notice of a port entering a state, `count` its training attempt count (R170). -/
def linkStateNotice (p : Port) (st : LinkState) (count : Tag) (s : State) : NoticeReq where
  kind := .linkState
  port := some p
  unit := (s.ports.get p).partnerUnit.getD 0
  tag := count
  address := 0
  label := 0
  generation := s.steering.generation
  detail := stateDetail st

/-- A port changes state with a LINK_STATE notice, and every wait mark is cleared (R170, R30). -/
def stateEntered (p : Port) (lp : LinkPort) (count : Tag) (s : State) : State :=
  unmarked (noticed (linkStateNotice p lp.state count s) (withPort p lp s))

/-- The head of the channel of a port's ingress queue leaves it with its dispatch complete: its slot is
freed, an ACK is owed, and the dispatcher's pointer moves on (R25, R26, R142). -/
def headLeft (p : Port) (ch : Chan) (s : State) : State :=
  let lp := s.ports.get p
  let d := s.dispatchers.get p
  { s with
    ports := s.ports.set p
      { lp with ingress := lp.ingress.set ch (lp.ingress.get ch).tail, ackOwed := true }
    dispatchers := s.dispatchers.set p
      { d with pointer := ch.next, marks := d.marks.set ch [], work := none } }

/-- The dispatch of the head of a channel is dropped: the head stays with a wait mark for the resources
lacking, and the pointer moves on (R25, R26). -/
def headDropped (p : Port) (ch : Chan) (lacking : List Resource) (s : State) : State :=
  let d := s.dispatchers.get p
  { s with
    dispatchers := s.dispatchers.set p
      { d with pointer := ch.next, marks := d.marks.set ch lacking, work := none } }

/-- The dispatch of a port waits for its next event. -/
def dispatchGoesOn (p : Port) (w : Work) (s : State) : State :=
  { s with dispatchers := s.dispatchers.set p { s.dispatchers.get p with work := some w } }

/-- A packet enters the tail of a transmit queue with the port's next transmit stamp (R146). -/
def queued (p : Port) (ch : Chan) (pkt : Packet) (s : State) : State :=
  let lp := s.ports.get p
  { s with
    ports := s.ports.set p
      { lp with
        transmit := lp.transmit.set ch (lp.transmit.get ch ++ [⟨pkt, lp.nextStamp⟩])
        nextStamp := lp.nextStamp + 1 } }

/-- A reply of length 0 that the part makes up (R37). -/
def shortReply (source dest : UnitNo) (tag : Tag) (status : ReplyStatus) : Packet where
  kind := .reply
  source := source
  dest := dest
  tag := tag
  length := 0
  status := statusByte status
  address := 0
  payload := []

/-- Whether a transmit queue of a port takes an offer: the port is UP or RETRAINING and a slot is free
(R147). -/
def TakesOffer (p : Port) (ch : Chan) (s : State) : Prop :=
  ((s.ports.get p).state = .up ∨ (s.ports.get p).state = .retraining) ∧
    ((s.ports.get p).transmit.get ch).length < slotsOf ch

/-- The completed dispatch of a decision is reported for counting, unless no entry decided it (R23, R26). -/
def reportedBy (p : Port) (dec : Decision) (s : State) : State :=
  if dec.label = 0 then s
  else
    { s with
      steering := { s.steering with
        reports := s.steering.reports.set p
          (s.steering.reports.get p ++ [⟨dec.label, dec.generation⟩]) } }

/-! ### Command writes -/

/-- A command write carrying a command stands WAITING at the head of the command queue, from a manager and
within the command window, and no release executes (R110, R114, R116, R119). -/
def Takes (code : CommandCode) (body : List Byte) (slot : CommandSlot) (rest : List CommandSlot)
    (s : State) : Prop :=
  s.hold.release = none ∧ s.mgmt.queue = slot :: rest ∧ slot.state = .waiting ∧
    s.mgmt.managers.getLsbD slot.source.toNat = true ∧ slot.kind = .writeAck ∧
    slot.offset + slot.length.toNat - 1 ≤ 0xFF ∧ parseBlock slot.payload = some (code, body)

/-- The command write at the head of the command queue is answered: its slot is ANSWER_READY with the
8-byte result (R117, R120). -/
def answered (slot : CommandSlot) (rest : List CommandSlot) (r : Result) (index : Nat) (s : State) :
    State :=
  { s with
    mgmt := { s.mgmt with
      queue := { slot with state := .answerReady ⟨.ok, resultBytes r index, false⟩ } :: rest } }

/-- The batch in its execution pass at the head of the command queue (R121). -/
def batchGoesOn (slot : CommandSlot) (rest : List CommandSlot) (run : BatchRun) (s : State) : State :=
  { s with mgmt :=
    { s.mgmt with queue := { slot with state := .executingBatch run } :: rest } }

/-- The result of a RELEASE reaches the command that carries it. A single RELEASE is answered. A batch with
members left goes on to the next one, with the result as the last; a DONE last member is the batch's own
answer, and any other result ends the batch with the member's index. A release that a port-down of U has
cut off from its command delivers nothing (R77, R79, R120, R121). -/
def resultDelivered (delivers : Bool) (r : Result) (s : State) : State :=
  match delivers, s.mgmt.queue with
  | true, slot :: rest =>
    match slot.state with
    | .executing => answered slot rest r (if r.code = .done then 0 else 1) s
    | .executingBatch run =>
      if r.code ≠ .done then answered slot rest r run.index s
      else if run.todo = [] then answered slot rest r 0 s
      else batchGoesOn slot rest { run with index := run.index + 1, last := r } s
    | _ => s
  | _, _ => s

/-- The release in progress is over, and its result reaches its command (R77, R78). -/
def releaseEnded (delivers : Bool) (r : Result) (s : State) : State :=
  resultDelivered delivers r { s with hold := { s.hold with release := none } }

/-- The number of a command in byte 0 of its block (Table 11-3). -/
def commandNumber : CommandCode → Nat
  | .nop => 0
  | .insert => 1
  | .remove => 2
  | .modify => 3
  | .move => 4
  | .clearStaging => 5
  | .commit => 6
  | .forceDrain => 7
  | .release => 8
  | .discard => 9
  | .setParam => 10
  | .setAperture => 11
  | .setManagers => 12
  | .lockManagers => 13
  | .linkRestart => 14
  | .warmReset => 15
  | .batch => 16

/-- The body length of a command, where Table 11-4 fixes one: a BATCH body has any. -/
def LengthAllowed (code : CommandCode) (length : Nat) : Prop :=
  match code with
  | .nop | .clearStaging | .commit | .forceDrain | .lockManagers | .warmReset => length = 0
  | .remove | .release | .discard | .linkRestart => length = 2
  | .move | .setManagers => length = 4
  | .setAperture => length = 8
  | .setParam => length = 10
  | .insert => length = 42
  | .modify => length = 44
  | .batch => True

/-- The bytes are one command block: a known command, no flag, the length field the length of the body
that follows, and that length the command's own (R119, Table 11-4). -/
def BlockOf (bytes : List Byte) (code : CommandCode) (body : List Byte) : Prop :=
  ∃ c flags l0 l1 : Byte, bytes = c :: flags :: l0 :: l1 :: body ∧
    c.toNat = commandNumber code ∧ flags = 0 ∧ l0.toNat + 256 * l1.toNat = body.length ∧
    LengthAllowed code body.length

/-! ### Link ports -/

/-- The offer that a lanes byte and a rate byte give: 1, 2 or 4 lanes at 5, 10 or 20 Gbit/s (R172,
R186). -/
def Offers (o : Offer) (lanes rate : Byte) : Prop :=
  lanes.toNat = laneCount o.lanes ∧ rate.toNat = gigabits o.rate

/-- A training attempt as it begins: phase SPEED, an attempt deadline of 2,000 µs, and the offer that
LINK_PREF gives (R171, R172). -/
def attemptBegun (p : Port) (mode : Mode) (s : State) : Attempt where
  phase := .speed
  deadline := s.timebase + 2000
  mode := mode
  offer := s.mgmt.params.linkPref.get p
  partner := none
  agreed := none
  unit := s.mgmt.params.unit.get p
  identSent := false
  identTaken := false

/-- The part as a port enters TRAINING (R169, R171, R182, R125). -/
def trainingBegun (p : Port) (s : State) : State :=
  stateEntered p
    { s.ports.get p with
      state := .training, attempts := 0, txNext := 0, rxNext := 0, holdOff := none
      attempt := some (attemptBegun p .new s), owedTrains := [.speed] } 0 s

/-- The part as an UP port enters RETRAINING: the port keeps its queues, replay store, numbers, credit
and pointer (R180), and its receive mode (notes/assumptions/44.md). -/
def retrainingBegun (p : Port) (s : State) : State :=
  stateEntered p
    { s.ports.get p with
      state := .retraining, rounds := 0, ackDeadline := none, replayLeft := [], replayReqs := []
      attempt := some (attemptBegun p .resume s), owedTrains := [.speed] } 0 s

/-- The part as a training attempt of a port fails and another begins in the same state (R175). -/
def attemptRepeated (p : Port) (mode : Mode) (s : State) : State :=
  withPort p
    { s.ports.get p with
      attempts := (s.ports.get p).attempts + 1
      attempt := some (attemptBegun p mode s), owedTrains := [.speed] } s

/-- The part as an attempt of a port succeeds: in RESUME a replay of what the replay store holds begins
and the acknowledgement deadline runs (R174, R178). -/
def upEntered (p : Port) (a : Attempt) (s : State) : State :=
  let lp := s.ports.get p
  stateEntered p
    { lp with
      state := .up, attempts := 0, attempt := none, negotiated := a.agreed
      owedTrains := lp.owedTrains.filter fun ph => ph = .ready
      rxMode := .inOrder, rounds := 0
      replayLeft := if a.mode = .resume then lp.replayStore.map (·.seq) else []
      ackDeadline :=
        if a.mode = .resume ∧ lp.replayStore ≠ [] then some (s.timebase + 1000) else none }
    (BitVec.ofNat 7 lp.attempts) s

/-- A port that has taken the partner's IDENT: once it has sent its own the phase is READY (R173). -/
def identExchanged (a : Attempt) (lp : LinkPort) : LinkPort :=
  if a.identSent then
    { lp with
      attempt := some { a with phase := .ready, identTaken := true }
      owedTrains := lp.owedTrains ++ [.ready] }
  else { lp with attempt := some { a with identTaken := true } }

/-- Whether a sequence number lies in the replay window, from the held number up to the last one sent,
counting with the 12-bit wrap (R144, R167, R173). -/
def InWindow (lp : LinkPort) (held seq : SeqNo) : Prop :=
  (seq - held).toNat ≤ (lp.txNext - 1 - held).toNat

/-- A sequence number names a packet not sent: it lies ahead of the last one sent by up to half the 12-bit
range. Where the line lies is the model's reading (R167, R178; notes/assumptions/15.md). -/
abbrev NotSent (lp : LinkPort) (seq : SeqNo) : Prop :=
  2048 ≤ (lp.txNext - 1 - seq).toNat

/-- The packets of the replay store that were sent after a sequence number: those nearer to the last one
sent, counting back with the 12-bit wrap (R178). -/
def packetsAfter (lp : LinkPort) (seq : SeqNo) : List SentPacket :=
  lp.replayStore.filter fun pkt => (lp.txNext - 1 - pkt.seq).toNat < (lp.txNext - 1 - seq).toNat

/-- A port that takes an acknowledgement of a number in its replay window: the packets up to it leave the
replay store, and an advance clears the round count (R144, R178). -/
def acknowledged (held seq : SeqNo) (credit : Trio Nat) (lp : LinkPort) : LinkPort :=
  let store := lp.replayStore.filter fun pkt => (seq - held).toNat ≤ (pkt.seq - held - 1).toNat
  { lp with
    replayStore := store
    replayLeft := lp.replayLeft.filter fun n => store.any fun pkt => pkt.seq = n
    rounds := if seq = held then lp.rounds else 0
    credit := credit, acked := some seq }

/-- The packet of a channel that competes for the link: the head of its transmit queue, or for N the older
of that head and the packet in the fence slot (R149). -/
def Competes (lp : LinkPort) (ch : Chan) (slot : OutSlot) (fromFence : Bool) : Prop :=
  (fromFence = false ∧ (lp.transmit.get ch).head? = some slot ∧
    (ch = .n → ∀ fence ∈ lp.fenceSlot, slot.stamp < fence.stamp)) ∨
  (fromFence = true ∧ ch = .n ∧ lp.fenceSlot = some slot ∧
    ∀ head ∈ lp.transmit.n.head?, slot.stamp ≤ head.stamp)

/-- The head of a channel is sendable: the port is UP, its replay store has room, the channel has credit
left, and no posted write of the port has an earlier stamp than an N packet (R149, R144, R176). -/
def HeadSendable (lp : LinkPort) (ch : Chan) : Prop :=
  ∃ slot fromFence, Competes lp ch slot fromFence ∧ lp.state = .up ∧ lp.replayStore.length < 64 ∧
    (lp.replayStore.filter fun k => channelOf k.packet.kind = ch).length < lp.credit.get ch ∧
    (ch = .n → ∀ older ∈ lp.transmit.p, slot.stamp ≤ older.stamp)

/-! ### Expiries -/

/-- The command takes an expiry whose deadline passes a test: an attempt's, an acknowledgement's while UP,
port U's hold-off, a drain fence's, that of an AWAITING or ORPHANED entry, a cooling tag's, or that of a
HELD record that no release in steps holds off (R46, R59 to R61, R74, R78, R175, R179, R182). -/
def ExpiryOf (past : Time → Prop) (s : State) : Instr → Prop
  | .attemptDeadlineExpiry p => ∃ a, (s.ports.get p).attempt = some a ∧ past a.deadline
  | .ackDeadlineExpiry p =>
    (s.ports.get p).state = .up ∧ ∃ d, (s.ports.get p).ackDeadline = some d ∧ past d
  | .holdOffExpiry => s.ports.u.state = .faulted ∧ ∃ d, s.ports.u.holdOff = some d ∧ past d
  | .drainFenceExpiry p => ∃ e, entryUnder (fenceTagOf p) s = some e ∧ e.state = .awaiting ∧
      e.kind = .drainFence ∧ past e.deadline
  | .entryExpiry tag => ∃ e, entryUnder tag s = some e ∧ e.state = .awaiting ∧
      e.kind ≠ .drainFence ∧ past e.deadline
  | .orphanedExpiry tag => ∃ e, entryUnder tag s = some e ∧ e.state = .orphaned ∧ past e.deadline
  | .coolingExpiry tag => ∃ m ∈ s.tracker.cooling, m.tag = tag ∧ past m.release
  | .holdExpiry id => ∃ h d, heldUnder id s = some h ∧ h.state = .held d ∧ past d ∧
      ∀ r, s.hold.release = some r → r.record.id = id → r.phase = .waiting
  | _ => False

/-! ### Dispatches -/

/-- Whether the head of a channel is eligible: it exists and carries no wait mark, and for N no packet of
the port's P ingress queue carries an earlier stamp (R27 to R29). -/
def HeadEligible (lp : LinkPort) (d : Dispatcher) (ch : Chan) : Prop :=
  ∃ slot, (lp.ingress.get ch).head? = some slot ∧ d.marks.get ch = [] ∧
    (ch = .n → ∀ older ∈ lp.ingress.p, ¬older.stamp < slot.stamp)

/-- The dispatcher of a port is free and the head of a channel is the one it takes (R30). -/
def TakesHead (p : Port) (ch : Chan) (slot : InSlot) (s : State) : Prop :=
  chosenHead p s = some ch ∧ ((s.ports.get p).ingress.get ch).head? = some slot

/-- The malformed packets of R31, the bridge unit of the port of arrival given. -/
def Malformed (unit : UnitNo) (req : Packet) : Prop :=
  ¬(req.kind = .write ∨ req.kind = .writeAck ∨ req.kind = .read ∨ req.kind = .fence) ∨
  ((req.kind = .write ∨ req.kind = .writeAck ∨ req.kind = .read) ∧
    (req.length = 0 ∨ 256 < req.length.toNat ∨ 2 ^ 48 < req.address.toNat + req.length.toNat)) ∨
  (req.kind = .fence ∧ req.length ≠ 0) ∨ req.dest ≠ unit ∨ req.source = unit

/-- The dispatcher of a port takes a P or N head that is neither aborted nor malformed (R31, R43). -/
def TakesRequest (p : Port) (ch : Chan) (req : Packet) (s : State) : Prop :=
  ch ≠ .c ∧ ¬Malformed (s.mgmt.params.unit.get p) req ∧
    ∃ slot, TakesHead p ch slot s ∧ slot.packet = req ∧ slot.aborted = false

/-- A port-U request whose start address lies in the aperture (R22, R32). -/
def InAperture (p : Port) (req : Packet) (s : State) : Prop :=
  p = .u ∧ s.mgmt.apertureBase.toNat ≤ req.address.toNat ∧
    req.address.toNat ≤ s.mgmt.apertureBase.toNat + 0xFFFF

/-- The dispatcher of a port takes a request to be steered, and the lookup gives a decision (R26). -/
def Decides (p : Port) (ch : Chan) (req : Packet) (dec : Decision) (s : State) : Prop :=
  TakesRequest p ch req s ∧ req.kind ≠ .fence ∧ ¬InAperture p req s ∧
    dec = s.lookup false ⟨p, req.source, req.kind, req.address, req.length.toNat⟩

/-- A reply that the part makes up enters the C transmit queue of the port of its request (R37). -/
def repliedTo (p : Port) (req : Packet) (status : ReplyStatus) (s : State) : State :=
  queued p .c (shortReply (s.mgmt.params.unit.get p) req.source req.tag status) s

/-- The notice of a request that arrived on a port (R130). -/
def requestNoticed (kind : NoticeKind) (p : Port) (req : Packet) (label : Label) (gen : Gen)
    (detail : BitVec 16) : NoticeReq where
  kind := kind
  port := some p
  unit := req.source
  tag := if req.kind = .write then 0 else req.tag
  address := req.address
  label := label
  generation := gen
  detail := detail

/-- The notice of a decision, when one is raised. -/
def maybeNoticed (r : Option NoticeReq) (s : State) : State :=
  match r with
  | none => s
  | some r => noticed r s

/-! ### Drain reports -/

/-- The late causes after a report (R97). -/
def lateAfter (cause : Cause) (late : LateCauses) : LateCauses where
  timeout := late.timeout || cause = .timeout
  linkDown := late.linkDown || cause = .linkDown
  aborted := late.aborted || cause = .aborted
  skipped := late.skipped

/-- The outcome of a drain: FORCED, else LATE with any late cause, else CLEAN (R100). -/
def outcomeOf (c : Commit) : DrainOutcome :=
  if c.forced then .forced
  else if c.late.timeout || c.late.linkDown || c.late.aborted || c.late.skipped then .late
  else .clean

/-- The drain ends when no entry of the drain generation is left among the entries (R99). -/
def drainEnded (now : Time) (entries : List TrackEntry) (c : Commit) : Commit :=
  let left := (entries.filter fun e => e.generation = c.drainGeneration).length
  if left = 0 then
    { c with remaining := 0, state := .idle, lastOutcome := outcomeOf c, done := now }
  else { c with remaining := left }

/-- The Commit Status after the tracker has removed an entry with a cause and the entries given are left:
a removal is reported during a drain, when the entry is not of the current generation (R66, R97 to
R99). -/
def drainAfter (s : State) (e : TrackEntry) (cause : Cause) : Commit :=
  if s.commit.state = .draining ∧ e.generation ≠ s.steering.generation then
    drainEnded s.timebase s.tracker.entries { s.commit with
      late := lateAfter cause s.commit.late
      fences := if e.kind = .drainFence then s.commit.fences.set e.egress (fenceStateOf cause)
        else s.commit.fences }
  else s.commit

/-- The COMMIT_DONE notice of a drain that ends (R99, R130). -/
def commitDoneFor (c : Commit) : NoticeReq where
  kind := .commitDone
  port := none
  unit := 0
  tag := 0
  address := 0
  label := 0
  generation := c.drainGeneration
  detail := outcomeDetail c.lastOutcome

/-- Notices raised at one event, in some order (R131). -/
def NoticedInSomeOrder (rs : List NoticeReq) (s : State) (after : NoticeUnit) : Prop :=
  ∃ order : List NoticeReq, order.Perm rs ∧
    after = order.foldl (fun n r => n.take s.timebase r) s.notices

/-- The part after the removal of a tracker entry is reported with a cause and notices are raised; `u` is
the part with the entry removed already. -/
def Reported (e : TrackEntry) (cause : Cause) (notices : List NoticeReq) (u t : State) : Prop :=
  t = { u with commit := drainAfter u e cause, notices := t.notices, events := u.events + 1 } ∧
    NoticedInSomeOrder
      (notices ++ if u.commit.state = .draining ∧ t.commit.state = .idle then [commitDoneFor t.commit]
        else []) u t.notices

/-! ### Replies -/

/-- The tracker with an entry under a tag removed (R44). -/
def entryRemoved (tag : Tag) (t : Tracker) : Tracker :=
  { t with entries := t.entries.filter fun e => e.tag ≠ tag }

/-- The tag of an entry ended by a reply is free again: a traffic tag joins the tail of the free pool,
which clears the wait marks for a tag; a drain fence tag is idle (R45, R57, R30). -/
def tagFreed (tag : Tag) (s : State) : State :=
  if tag.toNat ≤ 125 then
    resourceFreed .tag { s with tracker := { entryRemoved tag s.tracker with
      free := s.tracker.free ++ [tag] } }
  else { s with tracker := entryRemoved tag s.tracker }

/-- The tag of an entry that no reply ended cools for the entry's reply timeout (R46). -/
def tagCooled (e : TrackEntry) (s : State) : State :=
  { s with tracker := { entryRemoved e.tag s.tracker with
    cooling := s.tracker.cooling ++ [⟨e.tag, s.timebase + e.timeout⟩] } }

/-- The length check of a reply (R53). -/
def FitsEntry (e : TrackEntry) (reply : Packet) : Prop :=
  reply.status = 0 ∧ reply.length = e.expected ∨
    1 ≤ reply.status.toNat ∧ reply.status.toNat ≤ 8 ∧ reply.length = 0

/-- The PARTNER_ERROR notice (R53, R130). -/
def partnerErrorFor (e : TrackEntry) (reply : Packet) : NoticeReq where
  kind := .partnerError
  port := some e.egress
  unit := e.dest
  tag := e.tag
  address := reply.length.setWidth 48
  label := e.label
  generation := e.generation
  detail := reply.status.setWidth 16

/-- The TIMEOUT notice, its detail 1 for a request and 2 for a drain fence (R59, R60, R130). -/
def timeoutFor (e : TrackEntry) (detail : BitVec 16) : NoticeReq where
  kind := .timeout
  port := some e.egress
  unit := e.dest
  tag := e.tag
  address := e.address
  label := e.label
  generation := e.generation
  detail := detail

/-- The LATE_REPLY notice (R58, R130). -/
def lateReplyFor (p : Port) (reply : Packet) (label : Label) (gen : Gen) : NoticeReq where
  kind := .lateReply
  port := some p
  unit := reply.source
  tag := reply.tag
  address := reply.length.setWidth 48
  label := label
  generation := gen
  detail := reply.status.setWidth 16

/-- The head of the C ingress queue of a port whose dispatch waits for an event. -/
def WaitsWith (p : Port) (ch : Chan) (w : Work) (req : Packet) (s : State) : Prop :=
  (s.dispatchers.get p).work = some w ∧
    ((s.ports.get p).ingress.get ch).head?.map (·.packet) = some req

/-- A port's transmit queue refuses an offer as down: the port is OFFLINE, TRAINING or FAULTED (R147). -/
def RefusesAsDown (p : Port) (s : State) : Prop :=
  (s.ports.get p).state = .offline ∨ (s.ports.get p).state = .training ∨
    (s.ports.get p).state = .faulted

/-- A port's transmit queue refuses an offer for want of space. -/
def RefusesAsFull (p : Port) (ch : Chan) (s : State) : Prop :=
  ¬RefusesAsDown p s ∧ slotsOf ch ≤ ((s.ports.get p).transmit.get ch).length

/-! ### The Hold Queue -/

/-- The notice of a hold record (R130). -/
def holdNoticed (kind : NoticeKind) (h : HoldSlot) : NoticeReq :=
  requestNoticed kind h.origin h.request h.label h.generation (h.id.setWidth 16)

/-- A slot is freed, which clears the wait marks for a Hold Queue slot (R73, R30). -/
def slotFreed (id : HoldId) (s : State) : State :=
  resourceFreed .holdSlot
    { s with hold := { s.hold with slots := s.hold.slots.filter fun h => h.id ≠ id } }

/-- A held request is refused: a posted write is discarded and its slot freed, and a non-posted request's
slot becomes ANSWERING with the status (R74, R76, R77). -/
def heldRefused (h : HoldSlot) (status : AnswerStatus) (s : State) : State :=
  if h.request.kind = .write then slotFreed h.id s
  else
    { s with
      hold := { s.hold with slots := s.hold.slots.map fun k =>
        if k.id = h.id then { k with state := .answering status s.events } else k }
      events := s.events + 1 }

/-- The expiry of a held record (R74). -/
def heldExpired (h : HoldSlot) (s : State) : State :=
  heldRefused h .refused (noticed (holdNoticed .holdExpired h) s)

/-- A release in progress whose record stands HELD in its slot has come to a phase; `delivers` says whether
its result still reaches a command (R77 to R79). -/
def Releasing (phase : ReleasePhase) (h : HoldSlot) (mark : Option Nat) (delivers : Bool)
    (s : State) : Prop :=
  s.hold.release = some ⟨h, mark, phase, delivers⟩ ∧ h ∈ s.hold.slots ∧ ∃ d, h.state = .held d

/-- The release goes on to a phase. -/
def releaseGoesOn (phase : ReleasePhase) (s : State) : State :=
  { s with hold :=
    { s.hold with release := s.hold.release.map fun r => { r with phase := phase } } }

/-- The decision of a release that ends DONE is reported for counting, unless no entry decided it (R23,
R78). -/
def reportedByHold (dec : Decision) (s : State) : State :=
  if dec.label = 0 then s
  else
    { s with steering := { s.steering with
      holdReports := s.steering.holdReports ++ [⟨dec.label, dec.generation⟩] } }

/-- The release ends with its request still HELD; an expiry that was reached meanwhile is taken (R78). -/
def releaseLeftHeld (delivers : Bool) (h : HoldSlot) (code : ResultCode) (s : State) : State :=
  let t := releaseEnded delivers ⟨code, 0⟩ s
  match h.state with
  | .held deadline => if Reached s.timebase deadline then heldExpired h t else t
  | .answering _ _ => t

/-! ### Port down and failed attempts -/

/-- The part as the third attempt of a TRAINING port fails: the port is FAULTED, and nothing is lost (R175,
R182). -/
def trainingGivenUp (p : Port) (s : State) : State :=
  stateEntered p
    { s.ports.get p with
      state := .faulted, attempts := 3, attempt := none, owedTrains := [], negotiated := none
      holdOff := if p = .u then some (s.timebase + 10000) else none } 3 s

/-- The release that a port-down stops: one in steps whose origin is the port (R79). -/
def releaseStopped (p : Port) (s : State) : Option Release :=
  s.hold.release.filter fun r => r.record.origin = p && r.phase ≠ .waiting

/-- The entry whose tag a stopped release has taken and not placed; it is handed back (R79, R50). -/
def entryWithdrawn (p : Port) (s : State) : Option TrackEntry :=
  match releaseStopped p s with
  | some ⟨_, _, .place _ e, _⟩ => if entryUnder e.tag s = some e then some e else none
  | _ => none

/-- The tracker and the Commit Status once the tag of a stopped release is handed back, uncooled, and the
removal reported as WITHDRAWN (R79, R50, R66). -/
def afterHandBack (p : Port) (s : State) : Tracker × Commit :=
  match entryWithdrawn p s with
  | none => (s.tracker, s.commit)
  | some e =>
    let u := { s with tracker :=
      { entryRemoved e.tag s.tracker with free := e.tag :: s.tracker.free } }
    (u.tracker, drainAfter u e .withdrawn)

/-- Whether a port-down removes a tracker entry. An AWAITING entry that left by the port goes unless its
origin is another port that is not down, which is to be answered; an ORPHANED one that left by the port
goes; a CLOSING one goes with its origin, and stays where only its egress is the port (R49, R62, R63). -/
def removedByPortDown (p : Port) (s : State) (e : TrackEntry) : Bool :=
  match e.state with
  | .awaiting => e.egress = p && e.origin.all fun o => o.port = p || portIsDown o.port s
  | .orphaned => e.egress = p
  | .closing _ _ => e.origin.any fun o => o.port = p

/-- The state of an entry that a port-down leaves: an AWAITING one is CLOSING with LINK_DOWN when it left by
the port, and ORPHANED when it came from it (R62, R63). -/
def stateAfterPortDown (p : Port) (s : State) (e : TrackEntry) : TrackState :=
  if e.state = .awaiting ∧ e.egress = p then .closing .linkDown s.events
  else if e.state = .awaiting ∧ (e.origin.any fun o => o.port = p) = true then .orphaned
  else e.state

/-- The Commit Status after the removals of a port-down, which the tracker reports at one event with cause
LINK_DOWN when the entry is not of the current generation (R66, R97 to R101); the part given has them
removed already. -/
def drainAfterPortDown (s : State) (removed : List TrackEntry) : Commit :=
  let told := removed.filter fun e => e.generation ≠ s.steering.generation
  if s.commit.state = .draining ∧ told ≠ [] then
    drainEnded s.timebase s.tracker.entries { s.commit with
      late := { s.commit.late with linkDown := true }
      fences := told.foldl (fun fences e =>
        if e.kind = .drainFence then fences.set e.egress .portDown else fences) s.commit.fences }
  else s.commit

/-- A port has gone down. The port keeps its numbers and partner unit and loses the rest, and its dispatcher
starts anew. A release in steps from the port stops: its tag is handed back, and it returns ORIGIN_DOWN.
The tracker settles every entry, and the commit controller counts the removals. The port's held requests
are dropped. Port U's command queue is emptied, and a release that goes on has no command to answer. The
notices are raised in some order, the HOLD_DROPPED in slot order (R42, R62, R63, R79, R81, R101, R118,
R131, R170, R183). -/
def WentDown (p : Port) (s t : State) : Prop :=
  let lp := s.ports.get p
  let stopped := releaseStopped p s
  let back := afterHandBack p s
  let removed := back.1.entries.filter (removedByPortDown p s)
  let tracker := { back.1 with
    entries := (back.1.entries.filter fun e => !removedByPortDown p s e).map fun e =>
      { e with state := stateAfterPortDown p s e }
    cooling := back.1.cooling ++ removed.map fun e => ⟨e.tag, s.timebase + e.timeout⟩ }
  let commit := drainAfterPortDown { s with tracker := tracker, commit := back.2 } removed
  let dropped := (s.hold.slots.filter fun h => h.origin = p ∧ isHeld h = true).map
    (holdNoticed .holdDropped)
  let ending :=
    if s.commit.state = .draining ∧ commit.state = .idle then [commitDoneFor commit] else []
  ∃ order : List NoticeReq,
    order.Perm (linkStateNotice p .faulted 3 s :: (dropped ++ ending)) ∧ dropped.Sublist order ∧
    t = unmarked { s with
      ports := s.ports.set p { State.reset.ports.get p with
        state := .faulted, attempts := 3
        holdOff := if p = .u then some (s.timebase + 10000) else none
        partnerUnit := lp.partnerUnit, txNext := lp.txNext, rxNext := lp.rxNext
        nextArrival := lp.nextArrival, nextStamp := lp.nextStamp, wire := lp.wire }
      dispatchers := s.dispatchers.set p (State.reset.dispatchers.get p)
      tracker := tracker
      commit := commit
      hold := { s.hold with
        slots := s.hold.slots.filter fun h => h.origin ≠ p
        release := if stopped.isSome then none
          else s.hold.release.map fun r => { r with delivers := r.delivers && decide (p ≠ .u) } }
      mgmt := match p, stopped with
        | .u, _ => { s.mgmt with queue := [], pendingBase := none }
        | .d, none => s.mgmt
        | .d, some r => (resultDelivered r.delivers ⟨.originDown, 0⟩ s).mgmt
      notices := order.foldl (fun n r => n.take s.timebase r) s.notices
      events := s.events + 2 }

/-- A training attempt has failed: another begins in the same state, or the third failure brings the port to
FAULTED, from RETRAINING as a port-down (R175, R181). -/
def AttemptFailed (p : Port) (mode : Mode) (s t : State) : Prop :=
  ((s.ports.get p).attempts < 2 → t = attemptRepeated p mode s) ∧
  ((s.ports.get p).attempts = 2 →
    ((s.ports.get p).state = .training → t = trainingGivenUp p s) ∧
    ((s.ports.get p).state = .retraining → WentDown p s t))

/-! ### Management commands -/

/-- A command write at the head of the command queue is refused with a result code, failure index 1 and
value 0 (R120). -/
def refusedWith (slot : CommandSlot) (rest : List CommandSlot) (code : ResultCode) (s : State) : State :=
  answered slot rest ⟨code, 0⟩ 1 s

/-- A staging edit succeeds: the Staging List takes its new value and the command is DONE with the count
of the list (R83). -/
def edited (slot : CommandSlot) (rest : List CommandSlot) (staging : List Entry) (s : State) : State :=
  answered slot rest ⟨.done, BitVec.ofNat 32 staging.length⟩ 0
    { s with steering := { s.steering with staging := staging } }

/-- A label is pinned in the Active List (R90). -/
def PinnedLabel (label : Label) (s : State) : Prop :=
  ∃ a ∈ s.steering.active, a.entry.label = label ∧ a.entry.pinned = true

/-- The arrival field that names one port alone (R2). -/
def onlyOn : Port → Arrival
  | .u => .u
  | .d => .d

/-- A port is one by which a request that an entry matches can leave (R4). -/
def LeavesBy (e : Entry) (p : Port) : Prop :=
  e.action = .forward ∧ (e.arrival = .both ∨ e.arrival = onlyOn (otherPort p)) ∨
    e.action = .reflect ∧ (e.arrival = .both ∨ e.arrival = onlyOn p)

/-- The valid steering entries of R84, given the bridge units. The size, a 64-bit number in an image, is
a plain number here. -/
def ValidEntry (units : Duo UnitNo) (e : Entry) : Prop :=
  e.label ≠ 0 ∧ e.sources ≠ 0 ∧
  (e.base.toNat % 0x1000 = 0 ∧ e.size % 0x1000 = 0 ∧ 0x1000 ≤ e.size ∧
    e.base.toNat + e.size ≤ 2 ^ 48) ∧
  (e.target.isSome ↔ e.action = .forward ∨ e.action = .reflect) ∧
  (e.translated.isSome ↔ e.action = .forward ∨ e.action = .reflect) ∧
  (∀ unit p, e.target = some unit → LeavesBy e p → unit ≠ units.get p) ∧
  (∀ a, e.translated = some a → a.toNat % 0x1000 = 0 ∧ a.toNat + e.size ≤ 2 ^ 48) ∧
  (∀ t, e.replyTimeout = some t →
    (e.action = .forward ∨ e.action = .reflect) ∧ 100 ≤ t.toNat ∧ t.toNat ≤ 2000000) ∧
  (∀ t, e.holdLimit = some t → e.action = .hold ∧ 10 ≤ t.toNat ∧ t.toNat ≤ 1000000) ∧
  (e.notify ≠ none → e.action = .refuse)

/-- The entry that an image encodes with the arrival, kinds and action of its code bytes (Table 11-5,
R186). -/
def imageEntry (img : List Byte) (arrival : Arrival) (kinds : Kinds) (action : Action) : Entry where
  label := BitVec.ofNat 16 (field img 0 2)
  arrival := arrival
  sources := BitVec.ofNat 32 (field img 4 4)
  kinds := kinds
  base := BitVec.ofNat 48 (field img 8 6)
  size := field img 16 8
  action := action
  target := if bitAt img 15 0 then some (BitVec.ofNat 5 (field img 24 1)) else none
  translated := if bitAt img 15 0 then some (BitVec.ofNat 48 (field img 26 6)) else none
  replyTimeout := if bitAt img 15 1 then some (BitVec.ofNat 32 (field img 32 4)) else none
  holdLimit := if bitAt img 15 2 then some (BitVec.ofNat 32 (field img 36 4)) else none
  notify := if bitAt img 15 3 then some (bitAt img 15 4) else none
  pinned := bitAt img 15 5

/-- The codes of an image name an arrival, kinds and an action: U 1, D 2, BOTH 3; READS 1, WRITES 2, ALL 3;
FORWARD 1, REFLECT 2, REFUSE 3, HOLD 4 (Table 11-5). -/
def ArrivalCode (b : Byte) (a : Arrival) : Prop :=
  b = 1 ∧ a = .u ∨ b = 2 ∧ a = .d ∨ b = 3 ∧ a = .both

@[inherit_doc ArrivalCode]
def KindsCode (b : Byte) (k : Kinds) : Prop :=
  b = 1 ∧ k = .reads ∨ b = 2 ∧ k = .writes ∨ b = 3 ∧ k = .all

@[inherit_doc ArrivalCode]
def ActionCode (b : Byte) (a : Action) : Prop :=
  b = 1 ∧ a = .forward ∨ b = 2 ∧ a = .reflect ∨ b = 3 ∧ a = .refuse ∨ b = 4 ∧ a = .hold

/-- Bits 6 and 7 of the presence byte of an image are clear (R186). -/
def PresenceAllowed (img : List Byte) : Prop :=
  bitAt img 15 6 = false ∧ bitAt img 15 7 = false

/-- Check 1 of MODIFY (R87, R186): the selection names a field and neither the label nor a bit without one,
the presence byte is allowed, and every selected value lies in its field's own range. A field that is
not selected is not read. -/
def SelectionAllowed (sel : BitVec 16) (img : List Byte) : Prop :=
  0 < sel.toNat ∧ sel.toNat < 2 ^ 12 ∧ PresenceAllowed img ∧
  (sel.getLsbD 0 = true → ∃ a, ArrivalCode (byteAt img 2) a) ∧
  (sel.getLsbD 1 = true → field img 4 4 ≠ 0) ∧
  (sel.getLsbD 2 = true → ∃ k, KindsCode (byteAt img 3) k) ∧
  (sel.getLsbD 3 = true → field img 8 6 % 0x1000 = 0) ∧
  (sel.getLsbD 4 = true → field img 16 8 % 0x1000 = 0 ∧ 0x1000 ≤ field img 16 8) ∧
  (sel.getLsbD 5 = true → ∃ a, ActionCode (byteAt img 14) a) ∧
  (sel.getLsbD 7 = true → bitAt img 15 0 = true → field img 26 6 % 0x1000 = 0) ∧
  (sel.getLsbD 8 = true → bitAt img 15 1 = true →
    100 ≤ field img 32 4 ∧ field img 32 4 ≤ 2000000) ∧
  (sel.getLsbD 9 = true → bitAt img 15 2 = true →
    10 ≤ field img 36 4 ∧ field img 36 4 ≤ 1000000)

/-- The command each command code names as a command of the table. -/
def commandOf : CommandCode → Instr
  | .nop => .nop
  | .insert => .insert
  | .remove => .remove
  | .modify => .modify
  | .move => .move
  | .clearStaging => .clearStaging
  | .commit => .commit
  | .forceDrain => .forceDrain
  | .release => .release
  | .discard => .discard
  | .setParam => .setParam
  | .setAperture => .setAperture
  | .setManagers => .setManagers
  | .lockManagers => .lockManagers
  | .linkRestart => .linkRestart
  | .warmReset => .warmReset
  | .batch => .batch 16

/-- The reply of the access at the head of the command queue enters U's C transmit queue: its slot is
freed, a pending aperture move takes effect, and the wait marks for a command queue slot are cleared
(R109, R116, R117). -/
def accessReplied (slot : CommandSlot) (rest : List CommandSlot) (status : ReplyStatus)
    (payload : List Byte) (s : State) : State :=
  resourceFreed .commandSlot
    (queued .u .c ⟨.reply, s.mgmt.params.unit.u, slot.source, slot.tag,
        BitVec.ofNat 16 payload.length, statusByte status, 0, payload⟩
      { s with mgmt :=
        { s.mgmt with
          queue := rest, apertureBase := s.mgmt.pendingBase.getD s.mgmt.apertureBase
          pendingBase := none } })

/-! ### The lookup -/

/-- Whether an entry is a candidate for a request; a release lookup passes over HOLD entries (R12, R21). -/
def Candidate (release : Bool) (r : Request) (e : Entry) : Prop :=
  (e.arrival = .both ∨ e.arrival = onlyOn r.port) ∧
  e.sources.getLsbD r.source.toNat = true ∧
  (r.kind = .read ∧ (e.kinds = .reads ∨ e.kinds = .all) ∨
    (r.kind = .write ∨ r.kind = .writeAck) ∧ (e.kinds = .writes ∨ e.kinds = .all)) ∧
  ¬(release = true ∧ e.action = .hold)

/-- The request's range lies in the entry's window (R13). -/
def Contained (r : Request) (e : Entry) : Prop :=
  e.base.toNat ≤ r.address.toNat ∧ r.address.toNat + r.length - 1 ≤ e.base.toNat + e.size - 1

/-- The request's range overlaps the entry's window (R13). -/
def Overlaps (r : Request) (e : Entry) : Prop :=
  r.address.toNat ≤ e.base.toNat + e.size - 1 ∧ e.base.toNat ≤ r.address.toNat + r.length - 1

/-- The walk passes over an entry: it is no candidate, or its window and the range are disjoint (R12,
R13). -/
def PassedOver (release : Bool) (r : Request) (e : Entry) : Prop :=
  ¬Candidate release r e ∨ ¬Contained r e ∧ ¬Overlaps r e

/-! ### Records -/

/-- The first 40 bytes of a record show a steering entry (Table 11-5, R186). -/
def ShowsEntry (record : List Byte) (e : Entry) : Prop :=
  field record 0 2 = e.label.toNat ∧ ArrivalCode (byteAt record 2) e.arrival ∧
  KindsCode (byteAt record 3) e.kinds ∧ field record 4 4 = e.sources.toNat ∧
  field record 8 6 = e.base.toNat ∧ ActionCode (byteAt record 14) e.action ∧
  bitAt record 15 0 = e.target.isSome ∧ bitAt record 15 1 = e.replyTimeout.isSome ∧
  bitAt record 15 2 = e.holdLimit.isSome ∧ bitAt record 15 3 = e.notify.isSome ∧
  bitAt record 15 4 = e.notify.getD false ∧ bitAt record 15 5 = e.pinned ∧ PresenceAllowed record ∧
  field record 16 8 = e.size % 2 ^ 64 ∧ field record 24 1 = (e.target.getD 0).toNat ∧
  byteAt record 25 = 0 ∧ field record 26 6 = (e.translated.getD 0).toNat ∧
  field record 32 4 = (e.replyTimeout.getD 0).toNat ∧
  field record 36 4 = (e.holdLimit.getD 0).toNat

/-- A list readback record shows an entry with a hit count and count origin, and reads 0 after them (Table
11-7, R187). -/
def ShowsListed (record : List Byte) (e : Entry) (hits : BitVec 32) (origin : Gen) : Prop :=
  record.length = 64 ∧ ShowsEntry record e ∧ field record 40 4 = hits.toNat ∧
    field record 44 2 = origin.toNat ∧ ∀ i, 46 ≤ i → byteAt record i = 0

/-- A hold record shows a slot: state 1 with the deadline while HELD, and 2 with the answer status while
ANSWERING (Table 11-8, R187). -/
def ShowsHeld (record : List Byte) (h : HoldSlot) : Prop :=
  record.length = 64 ∧ byteAt record 0 = h.id ∧
  (∀ deadline, h.state = .held deadline →
    byteAt record 1 = 1 ∧ byteAt record 3 = 0 ∧ field record 16 4 = deadline.toNat) ∧
  (∀ status k, h.state = .answering status k →
    byteAt record 1 = 2 ∧ field record 16 4 = 0 ∧
      byteAt record 3 = match status with
        | .refused => 1
        | .boundary => 2
        | .aborted => 4
        | .linkDown => 5) ∧
  byteAt record 2 = (match h.origin with
    | .u => 1
    | .d => 2) ∧
  field record 4 2 = h.label.toNat ∧ field record 6 2 = h.generation.toNat ∧
  field record 8 4 = h.entered.toNat ∧ field record 12 4 = h.limit.toNat ∧
  byteAt record 20 = kindByte h.request.kind ∧ field record 21 1 = h.request.source.toNat ∧
  field record 22 1 = h.request.dest.toNat ∧ field record 23 1 = h.request.tag.toNat ∧
  field record 24 2 = h.request.length.toNat ∧ field record 26 6 = h.request.address.toNat ∧
  ∀ i < 32, byteAt record (32 + i) = byteAt h.request.payload i

/-- The notice kind codes (Table 11-3). -/
def noticeNumber : NoticeKind → Byte
  | .none => 0
  | .refused => 1
  | .boundary => 2
  | .malformed => 3
  | .timeout => 4
  | .lateReply => 5
  | .partnerError => 6
  | .held => 7
  | .holdExpired => 8
  | .holdFull => 9
  | .holdDropped => 10
  | .commitDone => 11
  | .linkState => 12
  | .apertureMisuse => 13
  | .warmResetDone => 14

/-- A notice record shows a notice: kind, port (0 for none), unit, tag, sequence number, label, generation,
detail, timestamp, address and dropped-before, and 0 after them (Table 11-9, R187). -/
def ShowsNotice (record : List Byte) (n : Notice) : Prop :=
  record.length = 32 ∧ byteAt record 0 = noticeNumber n.req.kind ∧
  byteAt record 1 = (match n.req.port with
    | none => 0
    | some .u => 1
    | some .d => 2) ∧
  field record 2 1 = n.req.unit.toNat ∧ field record 3 1 = n.req.tag.toNat ∧
  field record 4 2 = n.seq.toNat ∧ field record 6 2 = n.req.label.toNat ∧
  field record 8 2 = n.req.generation.toNat ∧ field record 10 2 = n.req.detail.toNat ∧
  field record 12 4 = n.time.toNat ∧ field record 16 6 = n.req.address.toNat ∧
  field record 22 1 = n.droppedBefore % 256 ∧ ∀ i, 23 ≤ i → byteAt record i = 0

/-- The result codes (Table 11-3). -/
def resultNumber : ResultCode → Byte
  | .done => 0
  | .accepted => 1
  | .busy => 2
  | .malformed => 3
  | .badField => 4
  | .dupLabel => 5
  | .noLabel => 6
  | .listFull => 7
  | .pinned => 8
  | .badPosition => 9
  | .notDraining => 10
  | .noHold => 11
  | .noTag => 12
  | .originDown => 13
  | .locked => 14
  | .notAllowed => 15

/-- The 8-byte payload of a command's reply shows its result: result code, failure index, two reserved
bytes that read 0, and the value (R120, R186). -/
def ShowsResult (bytes : List Byte) (r : Result) (index : Nat) : Prop :=
  bytes.length = 8 ∧ byteAt bytes 0 = resultNumber r.code ∧ field bytes 1 1 = index % 256 ∧
    byteAt bytes 2 = 0 ∧ byteAt bytes 3 = 0 ∧ field bytes 4 4 = r.value.toNat

/-- The 8 bytes of a port's group of the status block, from an offset on: link state, lanes, rate, partner
unit and attempt count, and three that are reserved (Table 11-10, R170). -/
def ShowsPort (block : List Byte) (off : Nat) (lp : LinkPort) : Prop :=
  let shown := if lp.state = .up ∨ lp.state = .retraining then lp.negotiated else none
  byteAt block off = (match lp.state with
    | .offline => 1
    | .training => 2
    | .up => 3
    | .retraining => 4
    | .faulted => 5) ∧
  field block (off + 1) 1 = (match shown with
    | none => 0
    | some o => laneCount o.lanes) ∧
  field block (off + 2) 1 = (match shown with
    | none => 0
    | some o => gigabits o.rate) ∧
  field block (off + 3) 1 = (match lp.partnerUnit with
    | none => 0xFF
    | some unit => unit.toNat) ∧
  field block (off + 4) 1 = lp.attempts % 256 ∧
  byteAt block (off + 5) = 0 ∧ byteAt block (off + 6) = 0 ∧ byteAt block (off + 7) = 0

/-- The Commit Status group of the status block (Table 11-10, Table 5-3). -/
def ShowsCommit (block : List Byte) (s : State) : Prop :=
  let c := s.commit
  let fence := fun (off : Nat) (st : FenceState) => byteAt block off = match st with
    | .none => 0
    | .skipped => 1
    | .outstanding => 2
    | .answered => 3
    | .expired => 4
    | .portDown => 5
    | .aborted => 6
  let cools := (∃ m ∈ s.tracker.cooling, m.tag = 126 ∨ m.tag = 127) ∨
    (s.ports.get .u).fenceSlot ≠ none ∨ (s.ports.get .d).fenceSlot ≠ none
  byteAt block 0x00 = (if c.state = .draining then 1 else 0) ∧
  (cools → byteAt block 0x01 = 1) ∧ (¬cools → byteAt block 0x01 = 0) ∧
  field block 0x02 2 = s.steering.generation.toNat ∧ field block 0x04 2 = c.drainGeneration.toNat ∧
  field block 0x06 1 = c.remaining % 256 ∧ fence 0x07 (c.fences.get .u) ∧ fence 0x08 (c.fences.get .d) ∧
  field block 0x09 1 = (if c.late.timeout then 1 else 0) + (if c.late.linkDown then 2 else 0) +
    (if c.late.aborted then 4 else 0) + (if c.late.skipped then 8 else 0) ∧
  byteAt block 0x0A = (if c.forced then 1 else 0) ∧
  byteAt block 0x0B = (match c.lastOutcome with
    | .none => 0
    | .clean => 1
    | .late => 2
    | .forced => 3
    | .abandoned => 4) ∧
  field block 0x0C 4 = c.accepted.toNat ∧ field block 0x10 4 = c.done.toNat ∧
  ∀ i, 0x14 ≤ i → i < 0x20 → byteAt block i = 0

/-- The list, tracker, Hold Queue and notice counts of the status block (Table 11-10). -/
def ShowsCounts (block : List Byte) (s : State) : Prop :=
  let count := fun (off n : Nat) => field block off 1 = n % 256
  let entries := s.tracker.entries
  count 0x20 s.steering.active.length ∧ count 0x21 s.steering.staging.length ∧
  count 0x22 s.tracker.free.length ∧ count 0x23 s.tracker.cooling.length ∧
  count 0x24 (entries.filter fun e => e.state = .awaiting).length ∧
  count 0x25 (entries.filter fun e => e.state = .orphaned).length ∧
  count 0x26 (entries.filter fun e => e.state ≠ .awaiting ∧ e.state ≠ .orphaned).length ∧
  count 0x27 (s.hold.slots.filter fun h => isHeld h).length ∧
  count 0x28 (s.hold.slots.filter fun h => !isHeld h).length ∧
  byteAt block 0x29 = s.hold.lastId ∧ count 0x2A s.notices.queue.length ∧ byteAt block 0x2B = 0 ∧
  field block 0x2C 2 = s.notices.nextSeq.toNat ∧ count 0x2E s.notices.dropped ∧
  byteAt block 0x2F = 0

/-- The Management, Parameters and timebase groups of the status block (Table 11-10). -/
def ShowsManagement (block : List Byte) (s : State) : Prop :=
  let m := s.mgmt
  let target := m.params.noticeTarget
  let default := fun (off : Nat) (a : DefaultAction) => match a with
    | .refuse => byteAt block off = 1 ∧ byteAt block (off + 1) = 0
    | .pass unit => byteAt block off = 2 ∧ field block (off + 1) 1 = unit.toNat
  field block 0x40 6 = m.apertureBase.toNat ∧ field block 0x46 6 = (m.pendingBase.getD 0).toNat ∧
  byteAt block 0x4C = (if m.pendingBase = none then 0 else 1) ∧
  byteAt block 0x4D = (if m.locked then 1 else 0) ∧ field block 0x4E 1 = m.queue.length % 256 ∧
  byteAt block 0x4F = 0 ∧ field block 0x50 4 = m.managers.toNat ∧
  field block 0x54 4 = m.params.replyTimeout.toNat ∧ field block 0x58 4 = m.params.holdLimit.toNat ∧
  default 0x5C (s.steering.defaults.get .u) ∧ default 0x5E (s.steering.defaults.get .d) ∧
  field block 0x60 6 = target.address.toNat ∧ field block 0x66 1 = target.unit.toNat ∧
  byteAt block 0x67 = (if target.enable then 1 else 0) ∧
  field block 0x68 1 = (m.params.unit.get .u).toNat ∧ field block 0x69 1 = (m.params.unit.get .d).toNat ∧
  Offers (m.params.linkPref.get .u) (byteAt block 0x6A) (byteAt block 0x6B) ∧
  Offers (m.params.linkPref.get .d) (byteAt block 0x6C) (byteAt block 0x6D) ∧
  byteAt block 0x6E = 0 ∧ byteAt block 0x6F = 0 ∧ field block 0x70 4 = s.timebase.toNat ∧
  ∀ i, 0x74 ≤ i → byteAt block i = 0

/-! ### Packets -/

/-- A packet of the three channels as its fields allow: a kind of Table 9-1, as many payload bytes as the
length gives where the kind carries a payload and none otherwise, a status on a REPLY alone, and an
address on the kinds that have one. -/
def PacketAllowed (pkt : Packet) : Prop :=
  (∀ code, pkt.kind ≠ .other code) ∧
  (pkt.kind = .write ∨ pkt.kind = .writeAck ∨ pkt.kind = .reply →
    pkt.payload.length = pkt.length.toNat ∧ pkt.length.toNat ≤ 256) ∧
  (pkt.kind = .read ∨ pkt.kind = .fence → pkt.payload = []) ∧
  (pkt.kind ≠ .reply → pkt.status = 0) ∧
  (pkt.kind = .fence ∨ pkt.kind = .reply → pkt.address = 0)

/-- The kinds whose header is 16 bytes long and ends in an address; the header of any other is 10 bytes
long (R185). -/
def hasAddress : PacketKind → Bool
  | .write | .writeAck | .read => true
  | .fence | .reply | .other _ => false

/-- The kinds that carry as many payload bytes as their length field gives (R155). -/
def hasPayload : PacketKind → Bool
  | .write | .writeAck | .reply => true
  | .read | .fence | .other _ => false

/-- The bytes of a packet of the three channels before its check code (Table 11-1, R184). -/
def ShowsPacket (bytes : List Byte) (pkt : Packet) (seq : SeqNo) : Prop :=
  byteAt bytes 0 = kindByte pkt.kind ∧ field bytes 1 1 = pkt.source.toNat ∧
  field bytes 2 1 = pkt.dest.toNat ∧ field bytes 3 1 = pkt.tag.toNat ∧
  field bytes 4 2 = pkt.length.toNat ∧ byteAt bytes 6 = pkt.status ∧ byteAt bytes 7 = 0 ∧
  field bytes 8 2 = seq.toNat ∧
  (if hasAddress pkt.kind then field bytes 10 6 = pkt.address.toNat ∧ bytes.drop 16 = pkt.payload
    else bytes.drop 10 = pkt.payload)

/-- What the bytes of a packet before a good check code are read as: they fill the frame of their kind,
the higher bits of the fields and the reserved bytes are ignored, and of a payload the first 256 bytes are
kept (Tables 11-1 and 11-2, R140, R155, R184, R185). -/
def ReadsAs (body : List Byte) : Frame → Prop
  | .speed mode lanes rate => byteAt body 0 = 0x10 ∧ byteAt body 1 = 1 ∧ body.length = 5 ∧
      mode = byteAt body 2 ∧ lanes = byteAt body 3 ∧ rate = byteAt body 4
  | .ident unit free last => byteAt body 0 = 0x10 ∧ byteAt body 1 = 2 ∧ body.length = 8 ∧
      unit.toNat = field body 2 1 % 32 ∧ last.toNat = field body 6 2 % 4096 ∧
      free = ⟨field body 3 1, field body 4 1, field body 5 1⟩
  | .ready => byteAt body 0 = 0x10 ∧ byteAt body 1 = 3 ∧ body.length = 2
  | .ack seq credit => byteAt body 0 = 0x11 ∧ body.length = 7 ∧ seq.toNat = field body 2 2 % 4096 ∧
      credit = ⟨field body 4 1, field body 5 1, field body 6 1⟩
  | .replayReq seq => byteAt body 0 = 0x12 ∧ body.length = 4 ∧ seq.toNat = field body 2 2 % 4096
  | .traffic pkt seq =>
    let header := if hasAddress pkt.kind then 16 else 10
    byteAt body 0 = kindByte pkt.kind ∧
    (∀ code, pkt.kind = .other code → code ∉ [1, 2, 3, 4, 5, 0x10, 0x11, 0x12]) ∧
    body.length = header + (if hasPayload pkt.kind then field body 4 2 else 0) ∧
    pkt.source.toNat = field body 1 1 % 32 ∧ pkt.dest.toNat = field body 2 1 % 32 ∧
    pkt.tag.toNat = field body 3 1 % 128 ∧ pkt.length.toNat = field body 4 2 ∧
    pkt.status = (if pkt.kind = .reply then byteAt body 6 else 0) ∧
    seq.toNat = field body 8 2 % 4096 ∧
    pkt.address.toNat = (if hasAddress pkt.kind then field body 10 6 else 0) ∧
    pkt.payload = if hasPayload pkt.kind then (body.drop header).take 256 else []
  | .damaged | .discarded => False

/-! ### The laws of the part -/

/-- The laws of the tracker and the commit controller: every traffic tag is free, cooling or in use and
only one of these (R44); a drain fence entry is AWAITING, of its own port, under its fence tag, and every
other entry has a traffic tag and an origin (R47), the entry of a placement in progress a traffic tag
too; every entry carries the current generation or, only while DRAINING, the drain generation, the one
before it (R91); the remaining count is the number of entries of the drain generation, and a drain goes
on only while it is not 0 (R66, R99). -/
structure TrackerLaws (s : State) : Prop where
  free_nodup : s.tracker.free.Nodup
  cooling_nodup : (s.tracker.cooling.map (·.tag)).Nodup
  entries_nodup : (s.tracker.entries.map (·.tag)).Nodup
  free_traffic : ∀ t ∈ s.tracker.free, t.toNat ≤ 125
  free_not_cooling : ∀ t ∈ s.tracker.free, ∀ m ∈ s.tracker.cooling, m.tag ≠ t
  free_not_used : ∀ t ∈ s.tracker.free, ∀ e ∈ s.tracker.entries, e.tag ≠ t
  cooling_not_used : ∀ m ∈ s.tracker.cooling, ∀ e ∈ s.tracker.entries, e.tag ≠ m.tag
  somewhere : ∀ t : Tag, t.toNat ≤ 125 →
    t ∈ s.tracker.free ∨ (∃ m ∈ s.tracker.cooling, m.tag = t) ∨ ∃ e ∈ s.tracker.entries, e.tag = t
  fences : ∀ e ∈ s.tracker.entries, e.kind = .drainFence →
    e.tag = fenceTagOf e.egress ∧ e.state = .awaiting ∧ e.origin = none ∧
      s.commit.state = .draining ∧ e.generation = s.commit.drainGeneration
  others : ∀ e ∈ s.tracker.entries, e.kind ≠ .drainFence → e.tag.toNat ≤ 125 ∧ e.origin ≠ none
  placing : ∀ p dec e, (s.dispatcher p).work = some (.place dec e) → e.tag.toNat ≤ 125
  releasing : ∀ r dec e, s.hold.release = some r → r.phase = .place dec e → e.tag.toNat ≤ 125
  generations : ∀ e ∈ s.tracker.entries, e.generation = s.steering.generation ∨
    s.commit.state = .draining ∧ e.generation = s.commit.drainGeneration
  drain_generation : s.commit.state = .draining →
    s.commit.drainGeneration + 1 = s.steering.generation
  remaining : s.commit.state = .draining → s.commit.remaining =
    (s.tracker.entries.filter fun e => e.generation = s.commit.drainGeneration).length
  goes_on : s.commit.state = .draining ↔ s.commit.remaining ≠ 0

/-- The laws of the lists: at most 64 entries, labels used once, every entry valid for the bridge units in
force (R1, R7, R84, R124), the Staging List holding every pinned Active entry unchanged and in order
(R90); and no default action or notice target names a bridge unit it may not (R16, R124). -/
structure ListLaws (s : State) : Prop where
  staging_size : s.steering.staging.length ≤ 64
  active_size : s.steering.active.length ≤ 64
  staging_labels : (s.steering.staging.map (·.label)).Nodup
  active_labels : (s.steering.active.map (·.entry.label)).Nodup
  staging_valid : ∀ e ∈ s.steering.staging, ValidEntry s.mgmt.params.unit e
  active_valid : ∀ a ∈ s.steering.active, ValidEntry s.mgmt.params.unit a.entry
  pinned_staged : ((s.steering.active.map (·.entry)).filter (·.pinned)).Sublist s.steering.staging
  default_unit : ∀ p, s.steering.defaults.get p ≠ .pass (s.mgmt.params.unit.get (otherPort p))
  notice_unit : s.mgmt.params.noticeTarget.unit ≠ s.mgmt.params.unit.u

/-- The laws of a link port: the capacities of its queues and replay store (R140, R146, R176); stamps rise
along a queue and lie below the next one (R140, R146); an attempt is in progress exactly in TRAINING and
RETRAINING, in NEW and RESUME mode (R171, R172); a port that is down holds nothing (R183); the round and
attempt counts keep their bounds (R175, R178); the acknowledgement deadline runs while UP with packets
unacknowledged (R176); a replay resends packets of the replay store (R178); only a FAULTED port U is in
its hold-off (R182). -/
structure PortLaws (p : Port) (lp : LinkPort) : Prop where
  ingress_size : ∀ ch : Chan, (lp.ingress.get ch).length ≤ slotsOf ch
  transmit_size : ∀ ch : Chan, (lp.transmit.get ch).length ≤ slotsOf ch
  store_size : lp.replayStore.length ≤ 64
  ingress_stamps : ∀ ch : Chan, ((lp.ingress.get ch).map (·.stamp)).Pairwise (· < ·) ∧
    ∀ k ∈ lp.ingress.get ch, k.stamp < lp.nextArrival
  transmit_stamps : ∀ ch : Chan, ((lp.transmit.get ch).map (·.stamp)).Pairwise (· < ·) ∧
    ∀ k ∈ lp.transmit.get ch, k.stamp < lp.nextStamp
  fence_stamp : ∀ k, lp.fenceSlot = some k → k.stamp < lp.nextStamp
  attempt_new : lp.state = .training ↔ ∃ a, lp.attempt = some a ∧ a.mode = .new
  attempt_resume : lp.state = .retraining ↔ ∃ a, lp.attempt = some a ∧ a.mode = .resume
  attempts_bound : lp.attempts ≤ 3 ∧ (lp.attempt ≠ none ∨ lp.state = .up → lp.attempts ≤ 2)
  down_empty : lp.state = .offline ∨ lp.state = .training ∨ lp.state = .faulted →
    lp.ingress = ⟨[], [], []⟩ ∧ lp.transmit = ⟨[], [], []⟩ ∧ lp.fenceSlot = none ∧
      lp.replayStore = [] ∧ lp.ackDeadline = none
  rounds_bound : lp.rounds ≤ 4
  deadline : lp.state = .up → (lp.ackDeadline = none ↔ lp.replayStore = [])
  replay_held : ∀ q ∈ lp.replayLeft, ∃ k ∈ lp.replayStore, k.seq = q
  hold_off : lp.holdOff ≠ none ↔ p = .u ∧ lp.state = .faulted

/-- The laws of the queues of the Hold Queue, the Management Unit and the Notice Unit: their capacities and
ids (R70, R72, R116, R131, R132); consecutive notice sequence numbers (R131); every command queue slot
behind the head WAITING or ABORTING (R116); a release in progress exactly while the head executes it,
but for one whose head a port-down took (R77, R79); and a manager set that is not empty and an aperture
on a multiple of 64 KiB (R108, R114). -/
structure QueueLaws (s : State) : Prop where
  hold_size : s.hold.slots.length ≤ 8
  hold_ids : (s.hold.slots.map (·.id)).Nodup ∧ ∀ h ∈ s.hold.slots, h.id ≠ 0
  command_size : s.mgmt.queue.length ≤ 4
  command_states : ∀ k ∈ s.mgmt.queue.tail, k.state = .waiting ∨ k.state = .aborting
  release_head : ∀ r, s.hold.release = some r → r.delivers = true →
    ∃ k, s.mgmt.queue.head? = some k ∧
      (k.state = .executing ∨ ∃ run, k.state = .executingBatch run)
  head_release : ∀ k, s.mgmt.queue.head? = some k → k.state = .executing →
    ∃ r, s.hold.release = some r ∧ r.delivers = true
  notice_size : s.notices.queue.length ≤ 32 ∧ s.notices.dropped ≤ 255
  notice_numbers : ∀ i n, s.notices.queue[i]? = some n →
    n.seq = s.notices.nextSeq - BitVec.ofNat 16 (s.notices.queue.length - i) ∧ n.droppedBefore ≤ 255
  managers : s.mgmt.managers ≠ 0
  aperture : s.mgmt.apertureBase.toNat % 0x10000 = 0 ∧
    ∀ base, s.mgmt.pendingBase = some base → base.toNat % 0x10000 = 0

end Sys2Proof
end

