-- ==== Sys2Proof/Certificates/Slice0/Obligations.lean ====
section
/-! DEFINITION. The statements for the provers. Each formalises rules of spec/ or says that it is the model's
choice; OBLIGATIONS.json lists them. A statement of what a command does writes out the whole state it
leaves, so that every part of the state it does not name is unchanged. -/

open Sys2Proof Sys2Proof.Machine

/-! ### The machine as a whole -/

/-- A step takes the command at the front of the queue and runs it on the state with the queue's rest.
The queue is the model's way to bring commands to the block (notes/assumptions/8.md). -/
def Obligations.StepRunsFrontCommand : Prop :=
  ∀ (s : State) (c : Instr) (rest : List Instr),
    step { s with pending := c :: rest } = exec c { s with pending := rest }

/-- Every step goes on: the guide stops the part nowhere, which is the model's reading of it
(notes/assumptions/3.md). With no command waiting, a microsecond passes, unless an expiry has waited for
the 50 µs that spec/00_scope.md, Section 5, allows: then that expiry is taken. The expiries at that limit
are those of every deadline of the part: of an attempt, an acknowledgement, the hold-off, a drain fence, an
AWAITING or ORPHANED entry, a cooling tag and a HELD record that no release in steps holds off. What an
empty queue does, which of several expiries goes first, and when a deadline that wraps is reached are the
model's (notes/assumptions/7.md). -/
def Obligations.EveryStepGoesOn : Prop :=
  (∀ s : State, GoesOn s) ∧
  (∀ (s : State) (c : Instr),
    c ∈ dueExpiries atLimit s ↔ ExpiryOf (AtLimit s.timebase) s c) ∧
  ∀ s : State, s.pending = [] →
    (dueExpiries atLimit s = [] → step s = .next { s with timebase := s.timebase + 1 }) ∧
    ∀ c cs, dueExpiries atLimit s = c :: cs → step s = exec c s

/-- The values of the state after cold reset that the rules give; and COLD_RESET, whatever the part was
doing: every block is at its cold values and the aperture stands where the strap places it. The queue of
commands and the event count are the model's own and stay (notes/assumptions/8.md, 23.md). The model's
also are the values the guide does not give: nothing is due to be sent, no dispatch is in progress, no head
is marked, no completion report is on its way, nothing was sent, and the stamp counts are 0
(notes/assumptions/22.md, 23.md, 36.md). -/
def Obligations.ColdResetGivesColdValues : Prop :=
  (let s := State.reset;
   s.timebase = 0 ∧ s.steering.active = [] ∧ s.steering.staging = [] ∧ s.steering.generation = 0 ∧
     s.steering.defaults = ⟨.refuse, .refuse⟩ ∧
     s.tracker.entries = [] ∧ s.tracker.cooling = [] ∧
     s.tracker.free = (List.range 126).map (BitVec.ofNat 7) ∧
     s.hold.slots = [] ∧ s.hold.lastId = 0 ∧
     s.commit.state = .idle ∧ s.commit.drainGeneration = 0 ∧ s.commit.remaining = 0 ∧
     s.commit.lastOutcome = .none ∧ s.commit.accepted = 0 ∧ s.commit.done = 0 ∧
     s.commit.fences = ⟨.none, .none⟩ ∧ s.commit.forced = false ∧
     s.commit.late = ⟨false, false, false, false⟩ ∧
     s.mgmt.managers = 0xFFFFFFFF ∧ s.mgmt.locked = false ∧ s.mgmt.queue = [] ∧
     s.mgmt.pendingBase = none ∧
     s.mgmt.params = ⟨20000, 1000, ⟨0, 0, false⟩, ⟨31, 31⟩, ⟨⟨.x4, .g20⟩, ⟨.x4, .g20⟩⟩⟩ ∧
     s.notices.queue = [] ∧ s.notices.nextSeq = 0 ∧ s.notices.dropped = 0 ∧
     ∀ p, (s.port p).state = .offline ∧ (s.port p).attempts = 0 ∧ (s.port p).attempt = none ∧
       (s.port p).negotiated = none ∧ (s.port p).partnerUnit = none ∧ (s.port p).rxMode = .inOrder ∧
       (s.port p).rounds = 0 ∧ (s.port p).ackDeadline = none ∧ (s.port p).holdOff = none ∧
       (s.port p).txNext = 0 ∧
       (s.port p).rxNext = 0 ∧ (s.port p).replayStore = [] ∧ (s.port p).acked = none ∧
       (s.port p).credit = ⟨0, 0, 0⟩ ∧ (s.port p).ingress = ⟨[], [], []⟩ ∧
       (s.port p).transmit = ⟨[], [], []⟩ ∧ (s.port p).fenceSlot = none ∧ (s.port p).pointer = .p ∧
       (s.dispatcher p).pointer = .p) ∧
  (let s := State.reset;
   s.steering.reports = ⟨[], []⟩ ∧ s.steering.holdReports = [] ∧ s.hold.release = none ∧
     ∀ p, (s.port p).owedTrains = [] ∧ (s.port p).replayLeft = [] ∧ (s.port p).replayReqs = [] ∧
       (s.port p).ackOwed = false ∧ (s.port p).nextArrival = 0 ∧ (s.port p).nextStamp = 0 ∧
       (s.port p).wire = none ∧ (s.dispatcher p).marks = ⟨[], [], []⟩ ∧
       (s.dispatcher p).work = none) ∧
  ∀ (strap : BitVec 4) (s : State),
    exec (.coldReset strap) s = .next { State.reset with
      mgmt := { State.reset.mgmt with
        apertureBase := BitVec.ofNat 48 (0xFFF000000000 + strap.toNat * 0x10000) }
      events := s.events
      pending := s.pending }

/-! ### Training -/

/-- A port enters TRAINING: on a stable reference clock when OFFLINE, at the end of port U's hold-off, and
on LINK_RESTART of a FAULTED port D; any other LINK_RESTART is refused. A port that has left OFFLINE, and a
hold-off that has not come to its deadline, do not change: that such an event changes nothing is the
model's choice (notes/assumptions/1.md), and when a deadline is reached its reading
(notes/assumptions/7.md). -/
def Obligations.TrainingBegins : Prop :=
  (∀ (p : Port) (s : State),
    ((s.port p).state = .offline →
      exec (.referenceClockStable p) s = .next (trainingBegun p s)) ∧
    ((s.port p).state ≠ .offline → exec (.referenceClockStable p) s = .next s)) ∧
  (∀ (s : State) (deadline : Time), (s.port .u).state = .faulted →
    (s.port .u).holdOff = some deadline → Reached s.timebase deadline →
    exec .holdOffExpiry s = .next (trainingBegun .u s)) ∧
  (∀ s : State, ((s.port .u).state = .faulted → ∀ deadline, (s.port .u).holdOff = some deadline →
      ¬Reached s.timebase deadline) →
    exec .holdOffExpiry s = .next s) ∧
  ∀ (s : State) (slot : CommandSlot) (rest : List CommandSlot) (body : List Byte),
    Takes .linkRestart body slot rest s →
    (byteAt body 0 = 2 → (s.port .d).state = .faulted →
      exec .linkRestart s = .next (answered slot rest ⟨.done, 0⟩ 0 (trainingBegun .d s))) ∧
    (¬(byteAt body 0 = 2 ∧ (s.port .d).state = .faulted) →
      exec .linkRestart s = .next (answered slot rest ⟨.badField, 0⟩ 1 s))

/-- A TRAIN is sent: the one that is due, or the one of the current phase again; a first IDENT takes the
place of an owed ACK and, once the partner's IDENT is taken, brings READY. While UP only an owed READY is
sent. Of several that are due, the one that fell due first goes: the model's choice
(notes/assumptions/46.md). A first IDENT clearing an owed ACK is its reading (notes/assumptions/13.md). -/
def Obligations.TrainsAreSent : Prop :=
  ∀ (p : Port) (s : State) (rest : List Phase),
    let lp := s.port p
    (∀ a, lp.attempt = some a →
      ((lp.owedTrains = .speed :: rest ∨ lp.owedTrains = [] ∧ rest = [] ∧ a.phase = .speed) →
        exec (.sendTrain p) s = .next (withPort p { lp with
          owedTrains := rest
          wire := some (sealed [0x10, 1, modeByte a.mode,
              BitVec.ofNat 8 (laneCount a.offer.lanes), BitVec.ofNat 8 (gigabits a.offer.rate)]) } s)) ∧
      ((lp.owedTrains = .ready :: rest ∨ lp.owedTrains = [] ∧ rest = [] ∧ a.phase = .ready) →
        exec (.sendTrain p) s = .next (withPort p { lp with
          owedTrains := rest, wire := some (sealed [0x10, 3]) } s)) ∧
      ((lp.owedTrains = .ident :: rest ∨ lp.owedTrains = [] ∧ rest = [] ∧ a.phase = .ident) →
        exec (.sendTrain p) s = .next (withPort p { lp with
          owedTrains := if a.phase = .ident ∧ a.identTaken = true then rest ++ [.ready] else rest
          attempt := some { a with
            identSent := true
            phase := if a.phase = .ident ∧ a.identTaken = true then .ready else a.phase }
          ackOwed := a.identSent && lp.ackOwed
          wire := some (sealed ([0x10, 2, a.unit.setWidth 8,
              BitVec.ofNat 8 (16 - lp.ingress.p.length), BitVec.ofNat 8 (16 - lp.ingress.n.length),
              BitVec.ofNat 8 (32 - lp.ingress.c.length)] ++ toLE 2 (lp.rxNext - 1).toNat)) } s))) ∧
    (lp.attempt = none → lp.owedTrains = .ready :: rest →
      exec (.sendTrain p) s = .next (withPort p { lp with
        owedTrains := rest, wire := some (sealed [0x10, 3]) } s))

/-- The partner's SPEED is taken in the SPEED phase: the smaller width and rate are agreed and IDENT
begins. The same SPEED in IDENT or READY brings the port's own once more. A mode of the other end, a lane
count or rate outside the list, and another offer than the one taken fail the attempt. The partner's IDENT
is taken in the IDENT phase. NEW: its number is not read, S becomes 4095 and its free slots the credit.
RESUME: a number in the replay window is taken as an acknowledgement with its credit, at the IDENT and not
only at the success (notes/assumptions/20.md), and another fails the attempt. In READY it brings the port's
own IDENT once more. A READY while UP makes the port's own READY due again. What comes too early, or to a
port that cannot take it, is discarded: an IDENT in SPEED or while UP, a READY in SPEED or IDENT, and, but
in READY, traffic and ACKs; a REPLAY_REQ and a damaged packet are discarded in every phase. That another
offer than the one taken fails the attempt is the model's reading (notes/assumptions/14.md), that a failed
attempt drops the TRAINs due its choice (notes/assumptions/40.md), as is that a TRAIN which falls due goes
behind those due already (notes/assumptions/46.md), and a third failure in RETRAINING is a
port-down with the choices and readings of notes/assumptions/5.md, 12.md, 18.md, 27.md and 28.md. -/
def Obligations.SpeedAndIdentAreTaken : Prop :=
  (∀ (p : Port) (s : State) (wire : List Byte) (mode lanes rate : Byte),
     readWire wire = .speed mode lanes rate → (s.port p).state ≠ .up →
     ((s.port p).attempt = none → exec (.speedReceived p wire) s = .next s) ∧
     ∀ a, (s.port p).attempt = some a →
       (∀ o, Offers o lanes rate → mode = modeByte a.mode →
         (a.phase = .speed →
           ∃ agreed : Offer, laneCount agreed.lanes = min (laneCount a.offer.lanes) (laneCount o.lanes) ∧
             gigabits agreed.rate = min (gigabits a.offer.rate) (gigabits o.rate) ∧
             exec (.speedReceived p wire) s = .next (withPort p { s.port p with
               attempt := some { a with
                 phase := .ident, partner := some o, agreed := some agreed
                 unit := s.mgmt.params.unit.get p }
               owedTrains := (s.port p).owedTrains ++ [.ident] } s)) ∧
         (a.phase ≠ .speed → a.partner = some o →
           exec (.speedReceived p wire) s = .next (withPort p
             { s.port p with owedTrains := (s.port p).owedTrains ++ [.speed] } s))) ∧
       ((∀ o, ¬Offers o lanes rate) ∨ mode ≠ modeByte a.mode ∨
           a.phase ≠ .speed ∧ (∀ o, Offers o lanes rate → a.partner ≠ some o) →
         ∃ t, exec (.speedReceived p wire) s = .next t ∧ AttemptFailed p a.mode s t)) ∧
  (∀ (p : Port) (s : State) (wire : List Byte) (unit : UnitNo) (free : Trio Nat) (last : SeqNo),
     readWire wire = .ident unit free last →
     ((∀ a, (s.port p).attempt = some a → a.phase = .speed) →
       exec (.identReceived p wire) s = .next s) ∧
     ∀ a, (s.port p).attempt = some a →
       (a.phase = .ready →
         exec (.identReceived p wire) s = .next (withPort p
           { s.port p with owedTrains := (s.port p).owedTrains ++ [.ident] } s)) ∧
       (a.phase = .ident →
         (a.mode = .new →
           exec (.identReceived p wire) s = .next (withPort p
             (identExchanged a { s.port p with
               partnerUnit := some unit, acked := some 4095, credit := free }) s)) ∧
         ∀ held, a.mode = .resume → (s.port p).acked = some held →
           (InWindow (s.port p) held last →
             exec (.identReceived p wire) s = .next (withPort p
               (identExchanged a
                 (acknowledged held last free { s.port p with partnerUnit := some unit })) s)) ∧
           (¬InWindow (s.port p) held last → ∃ t, exec (.identReceived p wire) s = .next t ∧
             AttemptFailed p .resume (withPort p { s.port p with partnerUnit := some unit } s) t))) ∧
  (∀ (p : Port) (s : State) (wire : List Byte), (s.port p).state = .up → readWire wire = .ready →
     exec (.readyReceived p wire) s = .next (withPort p
       { s.port p with owedTrains := (s.port p).owedTrains ++ [.ready] } s)) ∧
  ∀ (p : Port) (s : State) (wire : List Byte), (s.port p).state ≠ .up →
    (readWire wire = .damaged → exec (.receivePacket p wire) s = .next s) ∧
    (∀ seq, readWire wire = .replayReq seq → exec (.replayReqReceived p wire) s = .next s) ∧
    ((∀ a, (s.port p).attempt = some a → a.phase ≠ .ready) →
      (readWire wire = .ready → exec (.readyReceived p wire) s = .next s) ∧
      (∀ pkt seq, readWire wire = .traffic pkt seq →
        exec (.receivePacket p wire) s = .next s ∧ exec (.readyReceived p wire) s = .next s) ∧
      ∀ seq credit, readWire wire = .ack seq credit →
        exec (.ackReceived p wire) s = .next s ∧ exec (.readyReceived p wire) s = .next s)

/-- An UP port enters RETRAINING at the expiry of its acknowledgement deadline with packets
unacknowledged, on a SPEED from the partner, and on a REPLAY_REQ after four rounds. Before the deadline,
and while not UP, the expiry changes nothing (notes/assumptions/1.md); when a deadline is reached is the
model's reading (notes/assumptions/7.md). The model's also: the SPEED that brings the port to RETRAINING is
not yet the SPEED of the attempt it starts, so nothing is agreed (notes/assumptions/17.md); REPLAY_REQs
still due are dropped (notes/assumptions/18.md), and so are TRAINs (notes/assumptions/40.md); the receive
mode stays (notes/assumptions/44.md); and which numbers name a packet not sent
(notes/assumptions/15.md). -/
def Obligations.RetrainingBegins : Prop :=
  (∀ (p : Port) (s : State),
    ((s.port p).state = .up → ∀ deadline, (s.port p).ackDeadline = some deadline →
      ¬Reached s.timebase deadline) →
    exec (.ackDeadlineExpiry p) s = .next s) ∧
  ∀ (p : Port) (s : State), (s.port p).state = .up →
    (∀ deadline, (s.port p).ackDeadline = some deadline → Reached s.timebase deadline →
      (s.port p).replayStore ≠ [] →
      exec (.ackDeadlineExpiry p) s = .next (retrainingBegun p s)) ∧
    (∀ wire mode lanes rate, readWire wire = .speed mode lanes rate →
      exec (.speedReceived p wire) s = .next (retrainingBegun p s)) ∧
    (∀ wire seq, readWire wire = .replayReq seq → ¬NotSent (s.port p) seq →
      packetsAfter (s.port p) seq ≠ [] → (s.port p).rounds = 4 →
      exec (.replayReqReceived p wire) s = .next (retrainingBegun p s))

/-- In READY the partner's READY makes the attempt succeed and the port enter UP; a good packet of the
three channels or an ACK does so too, and is then taken as the first received while UP. A READY that is
due stays so, and the other TRAINs that are due go, which is the model's reading
(notes/assumptions/31.md). -/
def Obligations.PortEntersUp : Prop :=
  ∀ (p : Port) (s : State) (wire : List Byte) (a : Attempt),
    (s.port p).state ≠ .up → (s.port p).attempt = some a → a.phase = .ready →
    (readWire wire = .ready → exec (.readyReceived p wire) s = .next (upEntered p a s)) ∧
    (∀ pkt seq, readWire wire = .traffic pkt seq →
      exec (.readyReceived p wire) s = exec (.receivePacket p wire) (upEntered p a s)) ∧
    (∀ seq credit, readWire wire = .ack seq credit →
      exec (.readyReceived p wire) s = exec (.ackReceived p wire) (upEntered p a s))

/-- The expiry of an attempt deadline fails the attempt: another begins in the same state, or the third
failure brings the port to FAULTED, from TRAINING with nothing lost and from RETRAINING as a port-down.
Before the deadline, and with no attempt, the expiry changes nothing (notes/assumptions/1.md); when a
deadline is reached is the model's reading (notes/assumptions/7.md). That the TRAINs still due go with a
failed attempt is its choice (notes/assumptions/40.md), and the port-down has the choices and readings of
notes/assumptions/5.md, 12.md, 18.md, 27.md and 28.md. -/
def Obligations.AttemptExpiresAndRepeats : Prop :=
  (∀ (p : Port) (s : State),
    (∀ a, (s.port p).attempt = some a → ¬Reached s.timebase a.deadline) →
    exec (.attemptDeadlineExpiry p) s = .next s) ∧
  ∀ (p : Port) (s : State) (a : Attempt), (s.port p).attempt = some a →
    Reached s.timebase a.deadline →
    ∃ t, exec (.attemptDeadlineExpiry p) s = .next t ∧ AttemptFailed p a.mode s t

/-- A retraining whose third attempt fails is a port down. The port loses its replay store, queues and
partner credit, what it owed (notes/assumptions/18.md) and its attempt, and keeps its numbers and partner
unit. Its dispatcher starts anew and its held requests are dropped. A release in steps from the port stops
before the tracker acts (notes/assumptions/27.md), hands its tag back and returns ORIGIN_DOWN. The tracker
settles every entry, by its state and by which of its ports is down: down is not UP and not RETRAINING
(notes/assumptions/28.md), and a CLOSING entry whose origin is the port is removed though its egress be
the port too (notes/assumptions/12.md). The commit controller counts the removals, and the drain may end.
Port U's command queue is emptied, and a release that goes on has lost its result. The notices are raised
in some order (notes/assumptions/5.md). When the deadline is reached is notes/assumptions/7.md. What becomes
of each tracker entry when no release executes is also said entry by entry. -/
def Obligations.PortGoesDown : Prop :=
  (∀ (p : Port) (s : State) (a : Attempt), (s.port p).attempt = some a →
     Reached s.timebase a.deadline → (s.port p).attempts = 2 →
     (s.port p).state = .retraining →
     ∃ t, exec (.attemptDeadlineExpiry p) s = .next t ∧ WentDown p s t) ∧
  ∀ (p : Port) (s t : State) (a : Attempt), (s.port p).attempt = some a →
    Reached s.timebase a.deadline → (s.port p).attempts = 2 →
    (s.port p).state = .retraining → s.hold.release = none →
    exec (.attemptDeadlineExpiry p) s = .next t →
    t.tracker.free = s.tracker.free ∧
    ∀ e ∈ s.tracker.entries,
      let gone := e ∉ t.tracker.entries ∧ ⟨e.tag, s.timebase + e.timeout⟩ ∈ t.tracker.cooling
      (e.state = .awaiting → e.egress = p →
        (e.kind = .drainFence → e.origin = none → gone) ∧
        ∀ o, e.origin = some o →
          (o.port = p ∨ portIsDown o.port s = true → gone) ∧
          (o.port ≠ p → portIsDown o.port s = false →
            { e with state := .closing .linkDown s.events } ∈ t.tracker.entries)) ∧
      (e.state = .awaiting → e.egress ≠ p → ∀ o, e.origin = some o → o.port = p →
        { e with state := .orphaned } ∈ t.tracker.entries) ∧
      (e.state = .orphaned → e.egress = p → gone) ∧
      (∀ status k o, e.state = .closing status k → e.origin = some o →
        (o.port = p → gone) ∧ (o.port ≠ p → e ∈ t.tracker.entries)) ∧
      (e.egress ≠ p → (∀ o, e.origin = some o → o.port ≠ p) → e ∈ t.tracker.entries)

/-! ### Reception, acknowledgement and replay -/

/-- A packet of the three channels received while UP, in the order of tests of R177: damaged, a duplicate,
out of sequence, a credit overrun, or accepted. Each failing packet makes a REPLAY_REQ of its own due,
behind those due already, and the number it names is fixed then: the model's reading
(notes/assumptions/19.md). -/
def Obligations.PacketIsReceived : Prop :=
  ∀ (p : Port) (s : State) (wire : List Byte), (s.port p).state = .up →
    let lp := s.port p
    let requested := withPort p
      { lp with replayReqs := lp.replayReqs ++ [lp.rxNext - 1], rxMode := .awaitingReplay } s
    (readWire wire = .damaged → exec (.receivePacket p wire) s = .next requested) ∧
    ∀ pkt seq, readWire wire = .traffic pkt seq →
      let age := (lp.rxNext - seq).toNat
      let ch := channelOf pkt.kind
      (1 ≤ age → age ≤ 64 →
        exec (.receivePacket p wire) s = .next (withPort p { lp with ackOwed := true } s)) ∧
      (64 < age → lp.rxMode = .inOrder → exec (.receivePacket p wire) s = .next requested) ∧
      (64 < age → lp.rxMode = .awaitingReplay → exec (.receivePacket p wire) s = .next s) ∧
      (age = 0 → slotsOf ch ≤ (lp.ingress.get ch).length →
        exec (.receivePacket p wire) s = .next requested) ∧
      (age = 0 → (lp.ingress.get ch).length < slotsOf ch →
        exec (.receivePacket p wire) s = .next (withPort p { lp with
          ingress := lp.ingress.set ch (lp.ingress.get ch ++ [⟨pkt, lp.nextArrival, false⟩])
          nextArrival := lp.nextArrival + 1, rxNext := lp.rxNext + 1
          rxMode := .inOrder, ackOwed := true } s))

/-- An ACK taken while UP: one that names a number from S up to the last sent acknowledges and brings its
credit; one before S, or naming a packet not sent, is discarded whole. The acknowledgement deadline runs
again while the replay store is not empty. A REPLAY_REQ taken while UP with the round count below 4 begins
a replay round of the packets held after the number it names; with nothing held after it no round begins,
and a replay in progress ends. One that names a packet not sent is discarded: that a replay in progress
then goes on is the model's choice (notes/assumptions/43.md), and which numbers name such a packet, those
2048 or more ahead of the last one sent as the 12-bit count wraps, its reading
(notes/assumptions/15.md). -/
def Obligations.AcknowledgementAndReplayRequestAreTaken : Prop :=
  (∀ (p : Port) (s : State) (wire : List Byte) (seq held : SeqNo) (credit : Trio Nat),
     (s.port p).state = .up → readWire wire = .ack seq credit → (s.port p).acked = some held →
     (InWindow (s.port p) held seq →
       exec (.ackReceived p wire) s = .next (withPort p
         { acknowledged held seq credit (s.port p) with
           ackDeadline :=
             if (acknowledged held seq credit (s.port p)).replayStore = [] then none
             else some (s.timebase + 1000) } s)) ∧
     (¬InWindow (s.port p) held seq → exec (.ackReceived p wire) s = .next s)) ∧
  ∀ (p : Port) (s : State) (wire : List Byte) (seq : SeqNo),
    (s.port p).state = .up → readWire wire = .replayReq seq →
    (NotSent (s.port p) seq → exec (.replayReqReceived p wire) s = .next s) ∧
    (¬NotSent (s.port p) seq → packetsAfter (s.port p) seq = [] →
      exec (.replayReqReceived p wire) s =
        .next (withPort p { s.port p with replayLeft := [] } s)) ∧
    (¬NotSent (s.port p) seq → packetsAfter (s.port p) seq ≠ [] → (s.port p).rounds < 4 →
      exec (.replayReqReceived p wire) s =
        .next (withPort p { s.port p with
          rounds := (s.port p).rounds + 1
          replayLeft := (packetsAfter (s.port p) seq).map (·.seq) } s))

/-- The packets an UP port sends for itself: an owed ACK, the oldest REPLAY_REQ due, and, behind link
control, the next packet of a replay under its own sequence number. A REPLAY_REQ names the number that was
the last good one as it fell due, however late it goes: the model's reading (notes/assumptions/19.md). -/
def Obligations.LinkControlAndReplayAreSent : Prop :=
  ∀ (p : Port) (s : State), (s.port p).state = .up →
    let lp := s.port p
    (lp.ackOwed = true →
      exec (.sendAck p) s = .next (withPort p { lp with
        ackOwed := false
        wire := some (sealed ([0x11, 0] ++ toLE 2 (lp.rxNext - 1).toNat ++
          [BitVec.ofNat 8 (16 - lp.ingress.p.length), BitVec.ofNat 8 (16 - lp.ingress.n.length),
            BitVec.ofNat 8 (32 - lp.ingress.c.length)])) } s)) ∧
    (∀ seq later, lp.replayReqs = seq :: later →
      exec (.sendReplayReq p) s = .next (withPort p { lp with
        replayReqs := later, wire := some (sealed ([0x12, 0] ++ toLE 2 seq.toNat)) } s)) ∧
    (∀ q rest pkt, lp.ackOwed = false → lp.replayReqs = [] → lp.owedTrains = [] →
      lp.replayLeft = q :: rest → (lp.replayStore.find? fun k => k.seq = q) = some pkt →
      exec (.replayResend p) s = .next (withPort p { lp with
        replayLeft := rest, wire := some (sealed (packetBytes pkt.packet pkt.seq)) } s))

/-! ### Transmission -/

/-- The arbiter chooses the first channel with a sendable head in the cycle P, N, C from the pointer, and
none when no head is sendable: then nothing is sent and the pointer stays, as while link control or a
replay is due. The head chosen is sent: it leaves its queue or the fence slot under the next sequence
number, a copy enters the replay store, and the pointer moves on. A slot freed in a transmit queue clears
the wait marks that record it, which is the model's reading of R30 (notes/assumptions/16.md). The cycle
goes P, N, C and P again. -/
def Obligations.ChosenHeadIsTransmitted : Prop :=
  (Chan.p.next = .n ∧ Chan.n.next = .c ∧ Chan.c.next = .p) ∧
  (∀ (lp : LinkPort) (ch : Chan),
     lp.chosen = some ch ↔ HeadSendable lp ch ∧
       (ch = lp.pointer ∨ ch = lp.pointer.next ∧ ¬HeadSendable lp lp.pointer ∨
         ch = lp.pointer.next.next ∧ ¬HeadSendable lp lp.pointer ∧
           ¬HeadSendable lp lp.pointer.next)) ∧
  ∀ (p : Port) (s : State),
    let lp := s.port p
    ((∀ ch, ¬HeadSendable lp ch) → exec (.transmitPacket p) s = .next s) ∧
    (lp.ackOwed = true ∨ lp.replayReqs ≠ [] ∨ lp.owedTrains ≠ [] ∨ lp.replayLeft ≠ [] →
      exec (.transmitPacket p) s = .next s) ∧
    ∀ (ch : Chan) (slot : OutSlot) (fromFence : Bool),
      lp.ackOwed = false → lp.replayReqs = [] → lp.owedTrains = [] → lp.replayLeft = [] →
      lp.chosen = some ch → Competes lp ch slot fromFence →
      let sent := withPort p { lp with
        transmit := if fromFence then lp.transmit
          else lp.transmit.set ch (lp.transmit.get ch).tail
        fenceSlot := if fromFence then none else lp.fenceSlot
        txNext := lp.txNext + 1
        replayStore := lp.replayStore ++ [⟨lp.txNext, slot.packet⟩]
        ackDeadline := if lp.replayStore = [] then some (s.timebase + 1000) else lp.ackDeadline
        pointer := ch.next
        wire := some (sealed (packetBytes slot.packet lp.txNext)) } s
      exec (.transmitPacket p) s =
        .next (if fromFence then sent else resourceFreed (.transmit p ch) sent)

/-! ### Dispatch -/

/-- Which head a free dispatcher takes: the first eligible one in the cycle P, N, C from its pointer. A P or
C head is eligible when it carries no wait mark, an N head also only when no packet of the port's P
ingress queue arrived before it. A wait mark is that of a head dropped for want of a resource
(notes/assumptions/16.md). -/
def Obligations.FirstEligibleHeadIsTaken : Prop :=
  (Chan.p.next = .n ∧ Chan.n.next = .c ∧ Chan.c.next = .p) ∧
  ∀ (p : Port) (s : State) (ch : Chan),
    let lp := s.port p
    let d := s.dispatcher p
    chosenHead p s = some ch ↔
      d.work = none ∧ HeadEligible lp d ch ∧
        (ch = d.pointer ∨ ch = d.pointer.next ∧ ¬HeadEligible lp d d.pointer ∨
          ch = d.pointer.next.next ∧ ¬HeadEligible lp d d.pointer ∧
            ¬HeadEligible lp d d.pointer.next)

/-- A C head is presented to the tracker, and an N head that a warm reset has marked aborted is answered
ABORTED, or dropped for want of C space. What the wait mark of a dropped head records is the model's reading
(notes/assumptions/16.md). -/
def Obligations.RepliesAndAbortedHeadsAreDispatched : Prop :=
  ∀ (p : Port) (s : State) (slot : InSlot),
    (TakesHead p .c slot s → exec (.dispatch p) s = .next (dispatchGoesOn p .present s)) ∧
    (TakesHead p .n slot s → slot.aborted = true →
      (TakesOffer p .c s →
        exec (.dispatch p) s = .next (headLeft p .n (repliedTo p slot.packet .aborted s))) ∧
      (¬TakesOffer p .c s →
        exec (.dispatch p) s = .next (headDropped p .n [.transmit p .c] s)))

/-- A malformed head: a posted write is discarded with a MALFORMED notice, whose detail says which check
failed first; any other packet is answered UNSUPPORTED, or dropped for want of C space, its mark as
notes/assumptions/16.md reads it. -/
def Obligations.MalformedHeadIsRefused : Prop :=
  ∀ (p : Port) (s : State) (ch : Chan) (slot : InSlot),
    let req := slot.packet
    let unit := s.mgmt.params.unit.get p
    TakesHead p ch slot s → ch ≠ .c → slot.aborted = false → Malformed unit req →
    (req.kind = .write →
      exec (.dispatch p) s = .next (noticed
        (requestNoticed .malformed p req 0 s.steering.generation
          (if req.length = 0 ∨ 256 < req.length.toNat then 1
           else if 2 ^ 48 < req.address.toNat + req.length.toNat then 2
           else if req.dest ≠ unit then 3 else 4)) (headLeft p ch s))) ∧
    (req.kind ≠ .write →
      (TakesOffer p .c s →
        exec (.dispatch p) s = .next (headLeft p ch (repliedTo p req .unsupported s))) ∧
      (¬TakesOffer p .c s →
        exec (.dispatch p) s = .next (headDropped p ch [.transmit p .c] s)))

/-- REFUSE, BOUNDARY and DEFAULT_REFUSE: a posted write is discarded, and any other request is answered
REFUSED or BOUNDARY, or dropped for want of C space. The notice is raised and the dispatch reported for
counting when the dispatch completes. The egress-down outcome: when the egress port is in any state but
UP, a posted write is discarded with a REFUSED notice of detail EGRESS_DOWN, and any other request is
answered LINK_DOWN, or dropped for want of C space. No tag is taken, and the dispatch is reported for
counting. What the wait mark of a dropped head records is the model's reading (notes/assumptions/16.md). -/
def Obligations.RefusalIsCarriedOut : Prop :=
  (∀ (p : Port) (s : State) (ch : Chan) (req : Packet) (dec : Decision) (status : ReplyStatus)
     (notice : Option NoticeReq),
     Decides p ch req dec s →
     (dec.ruling = .refuse true ∧ status = .refused ∧
         notice = some (requestNoticed .refused p req dec.label dec.generation 1) ∨
       dec.ruling = .refuse false ∧ status = .refused ∧ notice = none ∨
       dec.ruling = .boundary ∧ status = .boundary ∧
         notice = some (requestNoticed .boundary p req dec.label dec.generation 0) ∨
       dec.ruling = .defaultRefuse ∧ status = .refused ∧
         notice = some (requestNoticed .refused p req dec.label dec.generation 2)) →
     (req.kind = .write →
       exec (.dispatch p) s = .next (reportedBy p dec (maybeNoticed notice (headLeft p ch s)))) ∧
     (req.kind ≠ .write → TakesOffer p .c s →
       exec (.dispatch p) s =
         .next (reportedBy p dec (maybeNoticed notice (headLeft p ch (repliedTo p req status s))))) ∧
     (req.kind ≠ .write → ¬TakesOffer p .c s →
       exec (.dispatch p) s = .next (headDropped p ch [.transmit p .c] s))) ∧
  ∀ (p : Port) (s : State) (ch : Chan) (req : Packet) (dec : Decision) (route : Route) (egress : Port)
    (dest : UnitNo) (address : Addr) (timeout : Time),
    Decides p ch req dec s → dec.ruling = .steer route egress dest address timeout →
    (s.port egress).state ≠ .up →
    (req.kind = .write →
      exec (.dispatch p) s = .next (reportedBy p dec
        (noticed (requestNoticed .refused p req dec.label dec.generation 3) (headLeft p ch s)))) ∧
    (req.kind ≠ .write → TakesOffer p .c s →
      exec (.dispatch p) s =
        .next (reportedBy p dec (headLeft p ch (repliedTo p req .linkDown s)))) ∧
    (req.kind ≠ .write → ¬TakesOffer p .c s →
      exec (.dispatch p) s = .next (headDropped p ch [.transmit p .c] s))

/-- A steered request whose egress port is UP goes on to its P offer or its tag allocation, and a HOLD
decision to the Hold Queue. Nothing else changes at the dispatch. A FENCE is neither looked up nor tested
against the aperture: it asks for a tag toward the opposite port when that is UP, and is answered OK
otherwise, or dropped for want of C space, its mark as notes/assumptions/16.md reads it. -/
def Obligations.SteeredHeldAndFenceRequestsGoOn : Prop :=
  (∀ (p : Port) (s : State) (ch : Chan) (req : Packet) (dec : Decision), Decides p ch req dec s →
     (∀ route egress dest address timeout,
       dec.ruling = .steer route egress dest address timeout → (s.port egress).state = .up →
       exec (.dispatch p) s = .next
         (dispatchGoesOn p (if req.kind = .write then .pOffer dec else .allocate dec) s)) ∧
     (∀ limit, dec.ruling = .hold limit →
       exec (.dispatch p) s = .next (dispatchGoesOn p (.holdOffer ch dec) s))) ∧
  ∀ (p : Port) (s : State) (ch : Chan) (req : Packet), TakesRequest p ch req s → req.kind = .fence →
    ((s.port (otherPort p)).state = .up →
      exec (.dispatch p) s = .next (dispatchGoesOn p (.allocateFence (otherPort p)) s)) ∧
    ((s.port (otherPort p)).state ≠ .up → TakesOffer p .c s →
      exec (.dispatch p) s = .next (headLeft p ch (repliedTo p req .ok s))) ∧
    ((s.port (otherPort p)).state ≠ .up → ¬TakesOffer p .c s →
      exec (.dispatch p) s = .next (headDropped p ch [.transmit p .c] s))

/-- An aperture access: a posted write is discarded with an APERTURE_MISUSE notice; a non-posted one that
runs past the aperture is answered UNSUPPORTED; one wholly in it takes a command queue slot, or is
answered BUSY when there is none. A reply with no C space drops the dispatch, its mark as
notes/assumptions/16.md reads it. -/
def Obligations.ApertureAccessIsDispatched : Prop :=
  ∀ (s : State) (ch : Chan) (req : Packet), TakesRequest .u ch req s → req.kind ≠ .fence →
    InAperture .u req s →
    let base := s.mgmt.apertureBase.toNat
    let past := base + 0xFFFF < req.address.toNat + req.length.toNat - 1
    (req.kind = .write →
      exec (.dispatch .u) s = .next (noticed
        (requestNoticed .apertureMisuse .u req 0 s.steering.generation 1) (headLeft .u ch s))) ∧
    (req.kind ≠ .write → past →
      (TakesOffer .u .c s →
        exec (.dispatch .u) s = .next (headLeft .u ch (repliedTo .u req .unsupported s))) ∧
      (¬TakesOffer .u .c s →
        exec (.dispatch .u) s = .next (headDropped .u ch [.transmit .u .c] s))) ∧
    (req.kind ≠ .write → ¬past →
      (s.mgmt.queue.length < 4 →
        exec (.dispatch .u) s = .next (headLeft .u ch { s with
          mgmt := { s.mgmt with
            queue := s.mgmt.queue ++
              [⟨req.source, req.tag, req.kind, req.address, req.address.toNat - base, req.length,
                req.payload, .waiting⟩] } })) ∧
      (4 ≤ s.mgmt.queue.length → TakesOffer .u .c s →
        exec (.dispatch .u) s = .next (headLeft .u ch (repliedTo .u req .busy s))) ∧
      (4 ≤ s.mgmt.queue.length → ¬TakesOffer .u .c s →
        exec (.dispatch .u) s = .next (headDropped .u ch [.commandSlot, .transmit .u .c] s)))

/-! ### The offers of a dispatch -/

/-- The P offer of a dispatcher, by the tests of R34: stale, accepted with the fields of Table 2-2, refused
for a port that is down (the egress-down outcome), or refused for want of a slot. That the stale test comes
before the test of the port is the model's reading (notes/assumptions/26.md), and so is what the mark of a
dropped head records (notes/assumptions/16.md). -/
def Obligations.PostedWriteIsOffered : Prop :=
  ∀ (p egress : Port) (s : State) (req : Packet) (dec : Decision) (route : Route) (dest : UnitNo)
    (address : Addr) (timeout : Time),
    WaitsWith p .p (.pOffer dec) req s → dec.ruling = .steer route egress dest address timeout →
    (dec.generation ≠ s.steering.generation →
      exec (.pTransmitOffer (.dispatcher p)) s = .next (headDropped p .p [] s)) ∧
    (dec.generation = s.steering.generation →
      (TakesOffer egress .p s →
        exec (.pTransmitOffer (.dispatcher p)) s = .next (reportedBy p dec (headLeft p .p
          (queued egress .p ⟨req.kind, s.mgmt.params.unit.get egress, dest, 0, req.length, 0, address,
            req.payload⟩ s)))) ∧
      (RefusesAsDown egress s → req.kind = .write →
        exec (.pTransmitOffer (.dispatcher p)) s = .next (reportedBy p dec (noticed
          (requestNoticed .refused p req dec.label dec.generation 3) (headLeft p .p s)))) ∧
      (RefusesAsFull egress .p s →
        exec (.pTransmitOffer (.dispatcher p)) s =
          .next (headDropped p .p [.transmit egress .p] s)))

/-- The allocation of a tag for a steered non-posted request: refused with the pool empty or the decision
stale, and otherwise the tag at the head of the pool goes to an AWAITING entry of the request. The
allocation of a tag for a FENCE: its entry has label 0, expected length 0, the current generation and
REPLY_TIMEOUT, and is bound for the partner's unit as it stands at the allocation
(notes/assumptions/38.md); with the pool empty the dispatch is dropped. That the empty pool is tested
before staleness is the model's reading (notes/assumptions/26.md), and so is what the mark of a dropped head
records (notes/assumptions/16.md). -/
def Obligations.TagIsAllocated : Prop :=
  (∀ (p egress : Port) (s : State) (req : Packet) (dec : Decision) (route : Route) (dest : UnitNo)
     (address : Addr) (timeout : Time),
     WaitsWith p .n (.allocate dec) req s → dec.ruling = .steer route egress dest address timeout →
     (s.tracker.free = [] →
       exec (.tagAllocation (.dispatcher p)) s = .next (headDropped p .n [.tag] s)) ∧
     (s.tracker.free ≠ [] → dec.generation ≠ s.steering.generation →
       exec (.tagAllocation (.dispatcher p)) s = .next (headDropped p .n [] s)) ∧
     ∀ tag rest, s.tracker.free = tag :: rest → dec.generation = s.steering.generation →
       let e : TrackEntry :=
         { tag := tag, state := .awaiting
           kind := if req.kind = .read then .read else .writeAck
           origin := some ⟨p, req.source, req.tag⟩, egress := egress, dest := dest
           address := address, expected := if req.kind = .read then req.length else 0
           label := dec.label, generation := dec.generation, timeout := timeout
           dispatched := s.timebase, deadline := s.timebase + timeout }
       exec (.tagAllocation (.dispatcher p)) s = .next (dispatchGoesOn p (.place (some dec) e)
         { s with tracker :=
           { s.tracker with entries := s.tracker.entries ++ [e], free := rest } })) ∧
  ∀ (p egress : Port) (s : State) (req : Packet), WaitsWith p .n (.allocateFence egress) req s →
    (s.tracker.free = [] →
      exec (.tagAllocation (.dispatcher p)) s = .next (headDropped p .n [.tag] s)) ∧
    ∀ tag rest, s.tracker.free = tag :: rest →
      let e : TrackEntry :=
        { tag := tag, state := .awaiting, kind := .fence
          origin := some ⟨p, req.source, req.tag⟩, egress := egress
          dest := (s.port egress).partnerUnit.getD 0, address := 0, expected := 0, label := 0
          generation := s.steering.generation, timeout := s.mgmt.params.replyTimeout
          dispatched := s.timebase, deadline := s.timebase + s.mgmt.params.replyTimeout }
      exec (.tagAllocation (.dispatcher p)) s = .next (dispatchGoesOn p (.place none e)
        { s with tracker :=
          { s.tracker with entries := s.tracker.entries ++ [e], free := rest } })

/-- The N placement of a dispatcher. With its entry as it was made, the request enters the egress N
transmit queue under its bridge tag, a FENCE with no address and length 0; with no free slot its tag is
handed back to the head of the pool, uncooled, and the removal reported as WITHDRAWN. With the port down
or the entry changed it is not sent, and the dispatch completes. A port that is RETRAINING takes and
refuses as one that is UP (notes/assumptions/26.md), the entry is compared as a whole
(notes/assumptions/30.md), an entry made after its port went down is left to expire
(notes/assumptions/37.md), and the marks that a dropped head takes and that a tag handed back clears are
those of notes/assumptions/16.md: these are the model's. -/
def Obligations.TaggedRequestIsPlaced : Prop :=
  ∀ (p : Port) (s : State) (req : Packet) (dec : Option Decision) (e : TrackEntry),
    WaitsWith p .n (.place dec e) req s →
    let counted := fun t : State => match dec with
      | none => t
      | some dec => reportedBy p dec t
    let source := s.mgmt.params.unit.get e.egress
    (entryUnder e.tag s = some e →
      (TakesOffer e.egress .n s →
        exec (.nTransmitPlacement (.dispatcher p)) s = .next (counted (headLeft p .n
          (queued e.egress .n
            (if e.kind = .fence then ⟨.fence, source, e.dest, e.tag, 0, 0, 0, []⟩
             else ⟨req.kind, source, e.dest, e.tag, req.length, 0, e.address, req.payload⟩) s)))) ∧
      (RefusesAsFull e.egress .n s →
        ∃ t, exec (.nTransmitPlacement (.dispatcher p)) s =
            .next (headDropped p .n [.transmit e.egress .n] (resourceFreed .tag t)) ∧
          Reported e .withdrawn []
            { s with tracker :=
              { entryRemoved e.tag s.tracker with free := e.tag :: s.tracker.free } } t)) ∧
    (RefusesAsDown e.egress s ∨ entryUnder e.tag s ≠ some e →
      exec (.nTransmitPlacement (.dispatcher p)) s = .next (counted (headLeft p .n s)))

/-- The HOLD offer of a dispatcher: a free slot takes the request under the first id after the last
assigned one that no slot carries; with the queue full the request is refused with a HOLD_FULL notice, or
dropped when its reply has no C space, its mark as notes/assumptions/16.md reads it. -/
def Obligations.HoldOfferIsTaken : Prop :=
  ∀ (p : Port) (s : State) (ch : Chan) (req : Packet) (dec : Decision) (limit : Time),
    WaitsWith p ch (.holdOffer ch dec) req s → dec.ruling = .hold limit →
    let full := requestNoticed .holdFull p req dec.label dec.generation 0
    (s.hold.slots.length < 8 → ∃ k < 255, ∃ slot : HoldSlot,
      let idAt := fun j : Nat => (BitVec.ofNat 8 ((s.hold.lastId.toNat + j) % 255 + 1) : HoldId)
      slot = ⟨idAt k, .held (s.timebase + limit), p, req, dec.label, dec.generation, s.timebase,
        limit⟩ ∧
      (∀ h ∈ s.hold.slots, h.id ≠ slot.id) ∧ (∀ j < k, ∃ h ∈ s.hold.slots, h.id = idAt j) ∧
      exec (.holdOffer p) s = .next (reportedBy p dec (noticed (holdNoticed .held slot)
        (headLeft p ch { s with hold :=
          { s.hold with slots := s.hold.slots ++ [slot], lastId := slot.id } })))) ∧
    (8 ≤ s.hold.slots.length →
      (req.kind = .write →
        exec (.holdOffer p) s = .next (reportedBy p dec (noticed full (headLeft p ch s)))) ∧
      (req.kind ≠ .write → TakesOffer p .c s →
        exec (.holdOffer p) s =
          .next (reportedBy p dec (noticed full (headLeft p ch (repliedTo p req .refused s))))) ∧
      (req.kind ≠ .write → ¬TakesOffer p .c s →
        exec (.holdOffer p) s = .next (headDropped p ch [.holdSlot, .transmit p .c] s)))

/-- The oldest completion report of a party is taken: the Active entry of its label whose count has run
since the reported generation counts one more, saturating; a report with label 0, or for which there is no
such entry, changes no count. That the reports of one party are taken first in, first out is the model's
choice (notes/assumptions/42.md). -/
def Obligations.CompletionReportIsCounted : Prop :=
  ∀ (party : Party) (s : State) (r : Report) (rest : List Report),
    let counted := s.steering.active.map fun a =>
      if r.label ≠ 0 ∧ a.entry.label = r.label ∧
          (r.generation - a.origin).toNat ≤ (s.steering.generation - a.origin).toNat then
        { a with hits := if a.hits = 0xFFFFFFFF then a.hits else a.hits + 1 }
      else a
    (∀ p, party = .dispatcher p → s.steering.reports.get p = r :: rest →
      exec (.hitCountReport party) s = .next { s with steering :=
        { s.steering with active := counted, reports := s.steering.reports.set p rest } }) ∧
    (party = .hold → s.steering.holdReports = r :: rest →
      exec (.hitCountReport party) s = .next { s with steering :=
        { s.steering with active := counted, holdReports := rest } })

/-! ### Replies -/

/-- What the tracker makes of a presented C head: a reply to an AWAITING entry of its port is to be
restored, a late one is discarded with a LATE_REPLY notice, and one to an ORPHANED entry or a drain fence
ends the entry and is not passed on. Which marks the freed tag clears is the model's reading
(notes/assumptions/16.md). The removal of an entry and the notices of one event come in some order
(notes/assumptions/5.md). -/
def Obligations.ReplyIsPresented : Prop :=
  ∀ (p : Port) (s : State) (reply : Packet), WaitsWith p .c .present reply s →
    ((∀ e, entryUnder reply.tag s = some e → e.egress ≠ p) →
      exec (.replyPresentation p) s = .next (headLeft p .c
        (noticed (lateReplyFor p reply
          (match entryUnder reply.tag s with
            | some e => if e.state = .awaiting ∨ e.state = .orphaned then 0 else e.label
            | none => 0)
          (match entryUnder reply.tag s with
            | some e => if e.state = .awaiting ∨ e.state = .orphaned then s.steering.generation
                else e.generation
            | none => s.steering.generation)) s))) ∧
    ∀ e, entryUnder reply.tag s = some e → e.egress = p →
      (∀ status k, e.state = .closing status k →
        exec (.replyPresentation p) s = .next (headLeft p .c
          (noticed (lateReplyFor p reply e.label e.generation) s))) ∧
      (e.kind ≠ .drainFence → e.state = .awaiting →
        exec (.replyPresentation p) s = .next (dispatchGoesOn p (.take e) s)) ∧
      (e.kind ≠ .drainFence → e.state = .orphaned → ∃ t notices,
        (FitsEntry e reply → notices = []) ∧
        (¬FitsEntry e reply → notices = [partnerErrorFor e reply]) ∧
        exec (.replyPresentation p) s = .next (headLeft p .c t) ∧
        Reported e .linkDown notices (tagFreed e.tag s) t) ∧
      (e.kind = .drainFence → e.state = .awaiting → ∃ t notices,
        (reply.status = 0 ∧ reply.length = 0 → notices = []) ∧
        (¬(reply.status = 0 ∧ reply.length = 0) → notices = [partnerErrorFor e reply]) ∧
        exec (.replyPresentation p) s = .next (headLeft p .c t) ∧
        Reported e .replied notices (tagFreed e.tag s) t)

/-- The take of a restored reply: with its entry still AWAITING and a C slot free at the origin, the reply
enters that queue under the origin's unit and tag, the entry ends and its tag is free. A reply that fails
the length check becomes a PARTNER_ERROR. Without space, or with the entry changed, the dispatch is
dropped. That the entry is compared as a whole with the one presented is the model's choice
(notes/assumptions/30.md), and which marks a dropped head takes and a freed tag clears its reading
(notes/assumptions/16.md). -/
def Obligations.RestoredReplyIsTaken : Prop :=
  ∀ (p : Port) (s : State) (reply : Packet) (e : TrackEntry), WaitsWith p .c (.take e) reply s →
    (∀ o, entryUnder reply.tag s = some e → e.egress = p → e.state = .awaiting →
      e.origin = some o →
      (TakesOffer o.port .c s → ∃ t notices sent,
        (FitsEntry e reply → notices = [] ∧ sent = ⟨.reply, s.mgmt.params.unit.get o.port, o.unit,
          o.tag, reply.length, reply.status, reply.address, reply.payload⟩) ∧
        (¬FitsEntry e reply → notices = [partnerErrorFor e reply] ∧
          sent = shortReply (s.mgmt.params.unit.get o.port) o.unit o.tag .partnerError) ∧
        exec (.replyTake p) s = .next (headLeft p .c t) ∧
        Reported e .replied notices (tagFreed e.tag (queued o.port .c sent s)) t) ∧
      (¬TakesOffer o.port .c s →
        exec (.replyTake p) s = .next (headDropped p .c [.transmit o.port .c] s))) ∧
    (¬(entryUnder reply.tag s = some e ∧ e.egress = p ∧ e.state = .awaiting) →
      exec (.replyTake p) s = .next (headDropped p .c [] s))

/-! ### The Outstanding Tracker -/

/-- The expiry of an AWAITING READ, WRITE_ACK or FENCE entry: it goes to CLOSING with TIMEOUT, and a
TIMEOUT notice is raised. The expiries that remove an entry to the cooling set: a drain fence with a
TIMEOUT notice, reported TIMEOUT, and an ORPHANED entry with no notice of its own, reported LINK_DOWN. Before
the deadline, and with no such entry, the expiry changes nothing (notes/assumptions/1.md); when a deadline
is reached is the model's reading (notes/assumptions/7.md). -/
def Obligations.EntryExpires : Prop :=
  (∀ (tag : Tag) (s : State) (e : TrackEntry), entryUnder tag s = some e → e.state = .awaiting →
     e.kind ≠ .drainFence → Reached s.timebase e.deadline →
     exec (.entryExpiry tag) s = .next (noticed (timeoutFor e 1)
       { s with
         tracker := { s.tracker with entries := s.tracker.entries.map fun k =>
           if k.tag = tag then { k with state := .closing .timeout s.events } else k }
         events := s.events + 1 })) ∧
  (∀ (p : Port) (s : State) (e : TrackEntry),
    entryUnder (fenceTagOf p) s = some e → e.state = .awaiting →
    e.kind = .drainFence → Reached s.timebase e.deadline →
    ∃ t, exec (.drainFenceExpiry p) s = .next t ∧
      Reported e .timeout [timeoutFor e 2] (tagCooled e s) t) ∧
  (∀ (tag : Tag) (s : State) (e : TrackEntry), entryUnder tag s = some e → e.state = .orphaned →
    Reached s.timebase e.deadline →
    ∃ t, exec (.orphanedExpiry tag) s = .next t ∧ Reported e .linkDown [] (tagCooled e s) t) ∧
  (∀ (tag : Tag) (s : State),
    ((∀ e, entryUnder tag s = some e → e.state = .awaiting → e.kind ≠ .drainFence →
        ¬Reached s.timebase e.deadline) → exec (.entryExpiry tag) s = .next s) ∧
    ((∀ e, entryUnder tag s = some e → e.state = .orphaned → ¬Reached s.timebase e.deadline) →
      exec (.orphanedExpiry tag) s = .next s)) ∧
  ∀ (p : Port) (s : State),
    (∀ e, entryUnder (fenceTagOf p) s = some e → e.state = .awaiting → e.kind = .drainFence →
      ¬Reached s.timebase e.deadline) → exec (.drainFenceExpiry p) s = .next s

/-- The placement of closing replies: with a C slot free at the port, one of the CLOSING entries of that
origin that entered CLOSING first is answered with its closing status, and its tag cools; with none free,
or no such entry, nothing happens. The placement of hold answers: with a C slot free at the port, one of
the slots of that origin that became ANSWERING first is answered with its answer status and freed; with
none free, or no such slot, nothing happens. That a placement with nothing to place changes nothing is the
model's choice (notes/assumptions/1.md), and which marks a freed slot clears its reading
(notes/assumptions/16.md). -/
def Obligations.OwedReplyIsPlaced : Prop :=
  (∀ (p : Port) (s : State),
     let closes := fun (e : TrackEntry) (status : CloseStatus) (k : Nat) (o : Origin) =>
       e ∈ s.tracker.entries ∧ e.state = .closing status k ∧ e.origin = some o ∧ o.port = p
     (TakesOffer p .c s → (∃ e status k o, closes e status k o) →
       ∃ e status k o t, closes e status k o ∧
         (∀ e' status' k' o', closes e' status' k' o' → k ≤ k') ∧
         exec (.closingReplyPlacement p) s = .next t ∧
         Reported e (causeOf status) []
           (tagCooled e (queued p .c
             (shortReply (s.mgmt.params.unit.get p) o.unit o.tag (closingStatusReply status)) s)) t) ∧
     (¬TakesOffer p .c s ∨ ¬(∃ e status k o, closes e status k o) →
       exec (.closingReplyPlacement p) s = .next s)) ∧
  ∀ (p : Port) (s : State),
    let answers := fun (h : HoldSlot) (status : AnswerStatus) (k : Nat) =>
      h ∈ s.hold.slots ∧ h.state = .answering status k ∧ h.origin = p
    (TakesOffer p .c s → (∃ h status k, answers h status k) →
      ∃ h status k, answers h status k ∧ (∀ h' status' k', answers h' status' k' → k ≤ k') ∧
        exec (.holdAnswerPlacement p) s =
          .next (slotFreed h.id (repliedTo p h.request (holdReply status) s))) ∧
    (¬TakesOffer p .c s ∨ ¬(∃ h status k, answers h status k) →
      exec (.holdAnswerPlacement p) s = .next s)

/-- The end of a cooling period: the tag leaves the cooling set; a traffic tag joins the tail of the free
pool, which clears the wait marks that record a tag (the model's reading, notes/assumptions/16.md), and a
drain fence tag is idle. Before the release time, and of a tag that does not cool, the expiry changes
nothing (notes/assumptions/1.md); when it is reached is the model's reading (notes/assumptions/7.md). -/
def Obligations.CoolingEnds : Prop :=
  (∀ (tag : Tag) (s : State),
    (∀ m ∈ s.tracker.cooling, m.tag = tag → ¬Reached s.timebase m.release) →
    exec (.coolingExpiry tag) s = .next s) ∧
  ∀ (tag : Tag) (s : State) (m : CoolingTag), m ∈ s.tracker.cooling → m.tag = tag →
    Reached s.timebase m.release →
    let left := s.tracker.cooling.filter fun k => k.tag ≠ tag
    (tag.toNat ≤ 125 →
      exec (.coolingExpiry tag) s = .next (resourceFreed .tag { s with tracker :=
        { s.tracker with cooling := left, free := s.tracker.free ++ [tag] } })) ∧
    (126 ≤ tag.toNat →
      exec (.coolingExpiry tag) s =
        .next { s with tracker := { s.tracker with cooling := left } })

/-! ### The Hold Queue -/

/-- The expiry of a HELD record that is not in release steps: a HOLD_EXPIRED notice, and the request is
refused. While its release is in steps the expiry is held off, and an ANSWERING slot does not expire. Before
the deadline the expiry changes nothing (notes/assumptions/1.md); when it is reached, and which marks a
freed slot clears, are the model's readings (notes/assumptions/7.md, 16.md). -/
def Obligations.HoldExpires : Prop :=
  ∀ (id : HoldId) (s : State),
    (∀ h deadline, heldUnder id s = some h → h.state = .held deadline →
      Reached s.timebase deadline →
      ((∀ r, s.hold.release = some r → r.record.id = id → r.phase = .waiting) →
        exec (.holdExpiry id) s = .next (heldExpired h s)) ∧
      ((∃ r, s.hold.release = some r ∧ r.record.id = id ∧ r.phase ≠ .waiting) →
        exec (.holdExpiry id) s = .next s)) ∧
    ((∀ h deadline, heldUnder id s = some h → h.state = .held deadline →
        ¬Reached s.timebase deadline) →
      exec (.holdExpiry id) s = .next s) ∧
    ((∀ h ∈ s.hold.slots, h.id = id → ∀ d, h.state ≠ .held d) →
      exec (.holdExpiry id) s = .next s)

/-- DISCARD: hold id 0 is refused BAD_FIELD and an id that is not HELD NO_HOLD; a HELD request is refused
with no notice, and the command is DONE. Which marks a freed slot clears is the model's reading
(notes/assumptions/16.md). -/
def Obligations.DiscardRefusesHeldRequest : Prop :=
  ∀ (s : State) (slot : CommandSlot) (rest : List CommandSlot) (body : List Byte),
    Takes .discard body slot rest s →
    (byteAt body 0 = 0 → exec .discard s = .next (answered slot rest ⟨.badField, 0⟩ 1 s)) ∧
    (byteAt body 0 ≠ 0 →
      (∀ h, heldUnder (byteAt body 0) s = some h →
        exec .discard s = .next (answered slot rest ⟨.done, 0⟩ 0 (heldRefused h .refused s))) ∧
      ((∀ h ∈ s.hold.slots, h.id = byteAt body 0 → ∀ d, h.state ≠ .held d) →
        exec .discard s = .next (answered slot rest ⟨.noHold, 0⟩ 1 s)))

/-! ### Releases -/

/-- RELEASE: hold id 0 is refused BAD_FIELD and an id that is not HELD NO_HOLD; otherwise the release
begins with the latest arrival stamp of the origin's P ingress queue as its mark, and the command
executes, as a single command or as a member of a batch. The end of a release's wait, once no posted write
at or before the mark is left in the origin's P ingress queue: NO_HOLD when the record no longer stands
HELD, which compares the whole record (notes/assumptions/30.md); ORIGIN_DOWN with the request refused when
the origin is not UP; and otherwise the release lookup comes next. Before that the release waits. The
result goes to the single command or to the batch, and nowhere once a port-down of U has emptied the
command queue. That the wait ends at a command of its own, after the event by which it is over
(notes/assumptions/45.md), that a wait which is not over goes on (notes/assumptions/1.md) and which marks a
freed slot clears (notes/assumptions/16.md) are the model's. -/
def Obligations.ReleaseBeginsAndWaits : Prop :=
  (∀ (s : State) (slot : CommandSlot) (rest : List CommandSlot) (body : List Byte),
     Takes .release body slot rest s →
     (byteAt body 0 = 0 → exec .release s = .next (answered slot rest ⟨.badField, 0⟩ 1 s)) ∧
     (byteAt body 0 ≠ 0 →
       (∀ h, heldUnder (byteAt body 0) s = some h →
         let mark := (s.port h.origin).ingress.p.getLast?.map (·.stamp)
         exec .release s = .next { s with
           hold := { s.hold with release := some ⟨h, mark, .waiting, true⟩ }
           mgmt := { s.mgmt with queue := { slot with state := .executing } :: rest } }) ∧
       ((∀ h ∈ s.hold.slots, h.id = byteAt body 0 → ∀ d, h.state ≠ .held d) →
         exec .release s = .next (answered slot rest ⟨.noHold, 0⟩ 1 s)))) ∧
  (∀ (s : State) (body : List Byte) (last : Bool),
     (byteAt body 0 = 0 → runMember .release body last s = .finished ⟨.badField, 0⟩ s) ∧
     (byteAt body 0 ≠ 0 →
       (∀ h, heldUnder (byteAt body 0) s = some h →
         let mark := (s.port h.origin).ingress.p.getLast?.map (·.stamp)
         runMember .release body last s = .suspended { s with
           hold := { s.hold with release := some ⟨h, mark, .waiting, true⟩ } }) ∧
       ((∀ h ∈ s.hold.slots, h.id = byteAt body 0 → ∀ d, h.state ≠ .held d) →
         runMember .release body last s = .finished ⟨.noHold, 0⟩ s))) ∧
  ∀ (s : State) (h : HoldSlot) (mark : Option Nat) (delivers : Bool),
    s.hold.release = some ⟨h, mark, .waiting, delivers⟩ →
    let held := h ∈ s.hold.slots ∧ ∃ d, h.state = .held d
    let isOver := ∀ m, mark = some m → ∀ k ∈ (s.port h.origin).ingress.p, m < k.stamp
    (¬isOver → exec .releaseWaitEnd s = .next s) ∧
    (isOver → ¬held →
      exec .releaseWaitEnd s = .next (releaseEnded delivers ⟨.noHold, 0⟩ s)) ∧
    (isOver → held → (s.port h.origin).state ≠ .up →
      exec .releaseWaitEnd s =
        .next (releaseEnded delivers ⟨.originDown, 0⟩ (heldRefused h .refused s))) ∧
    (isOver → held → (s.port h.origin).state = .up →
      exec .releaseWaitEnd s = .next (releaseGoesOn .lookup s))

/-- The release lookup and the placements of Table 4-2 that need no slot or tag: one event of the release
steps, which is the model's choice (notes/assumptions/10.md). The record is freed or ANSWERING, the
notices are those of a refusal, and the DONE result carries the outcome to the single command or the
batch, or nowhere once it is cut off. Which marks a freed slot clears is the model's reading
(notes/assumptions/16.md). -/
def Obligations.ReleaseIsDecided : Prop :=
  ∀ (s : State) (h : HoldSlot) (mark : Option Nat) (delivers : Bool),
    Releasing .lookup h mark delivers s →
    let req := h.request
    let ended := fun (outcome : BitVec 32) (t : State) =>
      exec .releaseSteps s = .next (releaseEnded delivers ⟨.done, outcome⟩ t)
    (InAperture h.origin req s →
      ended 5 (noticed (requestNoticed .apertureMisuse .u req 0 s.steering.generation 3)
        (heldRefused h .refused s))) ∧
    (¬InAperture h.origin req s →
      ∀ dec, dec = s.lookup true ⟨h.origin, req.source, req.kind, req.address, req.length.toNat⟩ →
      let notice := fun kind detail => requestNoticed kind h.origin req dec.label dec.generation detail
      (∀ route egress dest address timeout,
        dec.ruling = .steer route egress dest address timeout →
        ((s.port egress).state = .up →
          exec .releaseSteps s =
            .next (releaseGoesOn (if req.kind = .write then .pOffer dec else .allocate dec) s)) ∧
        ((s.port egress).state ≠ .up →
          ended 4 (reportedByHold dec
            (maybeNoticed (if req.kind = .write then some (notice .refused 3) else none)
              (heldRefused h .linkDown s))))) ∧
      (∀ notify, dec.ruling = .refuse notify →
        ended 2 (reportedByHold dec (maybeNoticed (if notify then some (notice .refused 1) else none)
          (heldRefused h .refused s)))) ∧
      (dec.ruling = .boundary →
        ended 3 (reportedByHold dec (noticed (notice .boundary 0) (heldRefused h .boundary s)))) ∧
      (dec.ruling = .defaultRefuse →
        ended 2 (reportedByHold dec (noticed (notice .refused 2) (heldRefused h .refused s)))) ∧
      ∀ limit, dec.ruling ≠ .hold limit)

/-- The P offer of a released posted write (Table 4-2), by the release step or by the offer's own
command. The tag allocation of a released non-posted request (Table 4-2), by the release step or by the
allocation's own command. That they are release steps is the model's choice (notes/assumptions/10.md),
and so is the order of the tests: a stale decision before the port, an empty pool before a stale decision
(notes/assumptions/26.md). The result goes to the single command or the batch, or nowhere once it is cut
off. That a BUSY of a full queue has the value 0 and an EGRESS_DOWN byte 5 clear (notes/assumptions/32.md),
which marks a freed slot clears (notes/assumptions/16.md), and when the deadline of a record left HELD is
reached (notes/assumptions/7.md) are the model's readings. -/
def Obligations.ReleasedRequestIsOffered : Prop :=
  (∀ (s : State) (h : HoldSlot) (mark : Option Nat) (delivers : Bool) (dec : Decision) (route : Route)
     (egress : Port) (dest : UnitNo) (address : Addr) (timeout : Time),
     Releasing (.pOffer dec) h mark delivers s →
     dec.ruling = .steer route egress dest address timeout →
     let req := h.request
     exec (.pTransmitOffer .hold) s = exec .releaseSteps s ∧
     (dec.generation ≠ s.steering.generation →
       exec .releaseSteps s = .next (releaseGoesOn .lookup s)) ∧
     (dec.generation = s.steering.generation →
       (TakesOffer egress .p s →
         exec .releaseSteps s = .next (releaseEnded delivers ⟨.done, 1⟩ (reportedByHold dec
           (slotFreed h.id (queued egress .p
             ⟨req.kind, s.mgmt.params.unit.get egress, dest, 0, req.length, 0, address, req.payload⟩
             s))))) ∧
       (RefusesAsFull egress .p s →
         exec .releaseSteps s = .next (releaseLeftHeld delivers h .busy s)) ∧
       (RefusesAsDown egress s →
         exec .releaseSteps s = .next (releaseEnded delivers ⟨.done, 4⟩ (reportedByHold dec
           (noticed (requestNoticed .refused h.origin req dec.label dec.generation 3)
             (heldRefused h .linkDown s))))))) ∧
  ∀ (s : State) (h : HoldSlot) (mark : Option Nat) (delivers : Bool) (dec : Decision) (route : Route)
    (egress : Port) (dest : UnitNo) (address : Addr) (timeout : Time),
    Releasing (.allocate dec) h mark delivers s →
    dec.ruling = .steer route egress dest address timeout →
    let req := h.request
    exec (.tagAllocation .hold) s = exec .releaseSteps s ∧
    (s.tracker.free = [] →
      exec .releaseSteps s = .next (releaseLeftHeld delivers h .noTag s)) ∧
    (s.tracker.free ≠ [] → dec.generation ≠ s.steering.generation →
      exec .releaseSteps s = .next (releaseGoesOn .lookup s)) ∧
    ∀ tag tags, s.tracker.free = tag :: tags → dec.generation = s.steering.generation →
      let e : TrackEntry :=
        { tag := tag, state := .awaiting
          kind := if req.kind = .read then .read else .writeAck
          origin := some ⟨h.origin, req.source, req.tag⟩, egress := egress, dest := dest
          address := address, expected := if req.kind = .read then req.length else 0
          label := dec.label, generation := dec.generation, timeout := timeout
          dispatched := s.timebase, deadline := s.timebase + timeout }
      exec .releaseSteps s = .next (releaseGoesOn (.place dec e) { s with tracker :=
        { s.tracker with entries := s.tracker.entries ++ [e], free := tags } })

/-- The N placement of a released non-posted request (Table 4-2), by the release step or by the
placement's own command: STEERED results carry the bridge tag in byte 5 with bit 7 set. The result goes to
the single command or the batch, or nowhere once it is cut off. A port that is RETRAINING hands back as
one that is UP (notes/assumptions/26.md), the entry is compared as a whole (notes/assumptions/30.md), an
entry made after its port went down is left to expire (notes/assumptions/37.md), and EGRESS_DOWN carries
no tag and BUSY the value 0 (notes/assumptions/32.md), and a freed slot or tag clears the marks that
record it (notes/assumptions/16.md): these are the model's, as are the release steps themselves
(notes/assumptions/10.md) and when the deadline of a record left HELD is reached
(notes/assumptions/7.md). -/
def Obligations.ReleasedRequestIsPlaced : Prop :=
  ∀ (s : State) (h : HoldSlot) (mark : Option Nat) (delivers : Bool) (dec : Decision) (e : TrackEntry),
    Releasing (.place dec e) h mark delivers s → e.kind ≠ .fence →
    let req := h.request
    let steered : BitVec 32 := 1 + 256 * (128 + e.tag.setWidth 32)
    exec (.nTransmitPlacement .hold) s = exec .releaseSteps s ∧
    (entryUnder e.tag s = some e →
      (TakesOffer e.egress .n s →
        exec .releaseSteps s = .next (releaseEnded delivers ⟨.done, steered⟩ (reportedByHold dec
          (slotFreed h.id (queued e.egress .n
            ⟨req.kind, s.mgmt.params.unit.get e.egress, e.dest, e.tag, req.length, 0, e.address,
              req.payload⟩ s))))) ∧
      (RefusesAsFull e.egress .n s → ∃ t,
        exec .releaseSteps s =
          .next (releaseLeftHeld delivers h .busy (resourceFreed .tag t)) ∧
        Reported e .withdrawn []
          { s with tracker :=
            { entryRemoved e.tag s.tracker with free := e.tag :: s.tracker.free } } t)) ∧
    (RefusesAsDown e.egress s →
      exec .releaseSteps s = .next (releaseEnded delivers ⟨.done, 4⟩ (reportedByHold dec
        (slotFreed h.id s)))) ∧
    (¬RefusesAsDown e.egress s → entryUnder e.tag s ≠ some e →
      exec .releaseSteps s = .next (releaseEnded delivers ⟨.done, steered⟩ (reportedByHold dec
        (slotFreed h.id s))))

/-! ### Commands of the Management Unit -/

/-- NOP returns DONE with value 0 and changes no state, as a single command and as a member at any place of
a batch. -/
def Obligations.NopOnlyAnswers : Prop :=
  (∀ (s : State) (slot : CommandSlot) (rest : List CommandSlot), Takes .nop [] slot rest s →
    exec .nop s = .next (answered slot rest ⟨.done, 0⟩ 0 s)) ∧
  ∀ (s : State) (last : Bool), runMember .nop [] last s = .finished ⟨.done, 0⟩ s

/-- SET_MANAGERS is refused LOCKED under the manager lock and BAD_FIELD for the empty set, and sets the
manager set otherwise. LOCK_MANAGERS sets the lock. SET_APERTURE: a base that is no multiple of 64 KiB or
whose aperture passes 2^48 is refused BAD_FIELD. Another base is recorded as the pending move; the base
in force is accepted and changes nothing, unless a move is pending (notes/assumptions/21.md). -/
def Obligations.ManagersAndApertureAreSet : Prop :=
  (∀ (s : State) (slot : CommandSlot) (rest : List CommandSlot) (body : List Byte),
     (Takes .setManagers body slot rest s →
       let units : UnitSet := BitVec.ofNat 32 (field body 0 4)
       (s.mgmt.locked = true → exec .setManagers s = .next (refusedWith slot rest .locked s)) ∧
       (s.mgmt.locked = false → units = 0 →
         exec .setManagers s = .next (refusedWith slot rest .badField s)) ∧
       (s.mgmt.locked = false → units ≠ 0 →
         exec .setManagers s = .next (answered slot rest ⟨.done, 0⟩ 0
           { s with mgmt := { s.mgmt with managers := units } }))) ∧
     (Takes .lockManagers body slot rest s →
       exec .lockManagers s = .next (answered slot rest ⟨.done, 0⟩ 0
         { s with mgmt := { s.mgmt with locked := true } }))) ∧
  ∀ (s : State) (slot : CommandSlot) (rest : List CommandSlot) (body : List Byte),
    Takes .setAperture body slot rest s →
    let base : Addr := BitVec.ofNat 48 (field body 0 6)
    let allowed := base.toNat % 0x10000 = 0 ∧ base.toNat + 0x10000 ≤ 2 ^ 48
    (¬allowed → exec .setAperture s = .next (refusedWith slot rest .badField s)) ∧
    (allowed → base = s.mgmt.apertureBase → s.mgmt.pendingBase = none →
      exec .setAperture s = .next (answered slot rest ⟨.done, 0⟩ 0 s)) ∧
    (allowed → base ≠ s.mgmt.apertureBase ∨ s.mgmt.pendingBase ≠ none →
      exec .setAperture s = .next (answered slot rest ⟨.done, 0⟩ 0
        { s with mgmt := { s.mgmt with pendingBase := some base } }))

/-- INSERT: the first failing check of R85 gives its code, the decoding of the image first (R186);
otherwise the entry the image encodes stands at the position named and the entries from there on move one
later. -/
def Obligations.EntryIsInserted : Prop :=
  ∀ (s : State) (slot : CommandSlot) (rest : List CommandSlot) (body : List Byte),
    Takes .insert body slot rest s →
    let position := field body 0 2
    let img := body.drop 2
    let staging := s.steering.staging
    ((∀ a, ¬ArrivalCode (byteAt img 2) a) ∨ (∀ k, ¬KindsCode (byteAt img 3) k) ∨
        (∀ a, ¬ActionCode (byteAt img 14) a) ∨ ¬PresenceAllowed img →
      exec .insert s = .next (refusedWith slot rest .badField s)) ∧
    ∀ arrival kinds action, ArrivalCode (byteAt img 2) arrival → KindsCode (byteAt img 3) kinds →
      ActionCode (byteAt img 14) action → PresenceAllowed img →
      let e := imageEntry img arrival kinds action
      (64 < position ∨ ¬ValidEntry s.mgmt.params.unit e →
        exec .insert s = .next (refusedWith slot rest .badField s)) ∧
      (position ≤ 64 → ValidEntry s.mgmt.params.unit e →
        ((∃ f ∈ staging, f.label = e.label) →
          exec .insert s = .next (refusedWith slot rest .dupLabel s)) ∧
        ((∀ f ∈ staging, f.label ≠ e.label) →
          (64 ≤ staging.length → exec .insert s = .next (refusedWith slot rest .listFull s)) ∧
          (staging.length < 64 → staging.length < position →
            exec .insert s = .next (refusedWith slot rest .badPosition s)) ∧
          (staging.length < 64 → position ≤ staging.length →
            exec .insert s =
              .next (edited slot rest (staging.take position ++ e :: staging.drop position) s))))

/-- REMOVE, MOVE and CLEAR_STAGING: the first failing check gives its code; otherwise the entry leaves the
Staging List, or stands at the position named with the others in order, or the Staging List becomes a
copy of the Active List. -/
def Obligations.EntryIsRemovedOrMoved : Prop :=
  ∀ (s : State) (slot : CommandSlot) (rest : List CommandSlot) (body : List Byte),
    let label : Label := BitVec.ofNat 16 (field body 0 2)
    let position := field body 2 2
    let staging := s.steering.staging
    let others := staging.filter fun f => f.label ≠ label
    (Takes .remove body slot rest s →
      (label = 0 → exec .remove s = .next (refusedWith slot rest .badField s)) ∧
      (label ≠ 0 → (∀ f ∈ staging, f.label ≠ label) →
        exec .remove s = .next (refusedWith slot rest .noLabel s)) ∧
      (label ≠ 0 → (∃ f ∈ staging, f.label = label) →
        (PinnedLabel label s → exec .remove s = .next (refusedWith slot rest .pinned s)) ∧
        (¬PinnedLabel label s → exec .remove s = .next (edited slot rest others s)))) ∧
    (Takes .move body slot rest s →
      (label = 0 ∨ 63 < position → exec .move s = .next (refusedWith slot rest .badField s)) ∧
      (label ≠ 0 → position ≤ 63 →
        ((∀ f ∈ staging, f.label ≠ label) →
          exec .move s = .next (refusedWith slot rest .noLabel s)) ∧
        ∀ e, staging.find? (fun f => f.label = label) = some e →
          (PinnedLabel label s → exec .move s = .next (refusedWith slot rest .pinned s)) ∧
          (¬PinnedLabel label s → staging.length ≤ position →
            exec .move s = .next (refusedWith slot rest .badPosition s)) ∧
          (¬PinnedLabel label s → position < staging.length →
            exec .move s =
              .next (edited slot rest (others.take position ++ e :: others.drop position) s)))) ∧
    (Takes .clearStaging body slot rest s →
      exec .clearStaging s = .next (edited slot rest (s.steering.active.map (·.entry)) s))

/-- MODIFY: the first failing check of R87 gives its code; otherwise the entry of the label takes the
selected fields from the image and keeps the others, its label and its position. That a presence byte with
bit 6 or 7 set is refused whatever the selection is the model's reading (notes/assumptions/25.md). -/
def Obligations.EntryIsModified : Prop :=
  ∀ (s : State) (slot : CommandSlot) (rest : List CommandSlot) (body : List Byte),
    Takes .modify body slot rest s →
    let label : Label := BitVec.ofNat 16 (field body 0 2)
    let sel : BitVec 16 := BitVec.ofNat 16 (field body 2 2)
    let img := body.drop 4
    let staging := s.steering.staging
    let chosen := fun {α : Type} (bit : Nat) (value old : α) => if sel.getLsbD bit then value else old
    let newEntry := fun (e : Entry) (arrival : Arrival) (kinds : Kinds) (action : Action) =>
      let given := imageEntry img arrival kinds action
      ({ label := e.label
         arrival := chosen 0 given.arrival e.arrival
         sources := chosen 1 given.sources e.sources
         kinds := chosen 2 given.kinds e.kinds
         base := chosen 3 given.base e.base
         size := chosen 4 given.size e.size
         action := chosen 5 given.action e.action
         target := chosen 6 given.target e.target
         translated := chosen 7 given.translated e.translated
         replyTimeout := chosen 8 given.replyTimeout e.replyTimeout
         holdLimit := chosen 9 given.holdLimit e.holdLimit
         notify := chosen 10 given.notify e.notify
         pinned := chosen 11 given.pinned e.pinned } : Entry)
    (¬SelectionAllowed sel img ∨ label = 0 →
      exec .modify s = .next (refusedWith slot rest .badField s)) ∧
    (SelectionAllowed sel img → label ≠ 0 →
      ((∀ f ∈ staging, f.label ≠ label) →
        exec .modify s = .next (refusedWith slot rest .noLabel s)) ∧
      ∀ e, staging.find? (fun f => f.label = label) = some e →
        (PinnedLabel label s → exec .modify s = .next (refusedWith slot rest .pinned s)) ∧
        (¬PinnedLabel label s →
          ∀ arrival kinds action,
            (sel.getLsbD 0 = true → ArrivalCode (byteAt img 2) arrival) →
            (sel.getLsbD 2 = true → KindsCode (byteAt img 3) kinds) →
            (sel.getLsbD 5 = true → ActionCode (byteAt img 14) action) →
            (¬ValidEntry s.mgmt.params.unit (newEntry e arrival kinds action) →
              exec .modify s = .next (refusedWith slot rest .badField s)) ∧
            (ValidEntry s.mgmt.params.unit (newEntry e arrival kinds action) →
              exec .modify s = .next (edited slot rest (staging.map fun f =>
                if f.label = label then newEntry f arrival kinds action else f) s))))

/-- COMMIT: refused BUSY with detail DRAINING or COOLING; otherwise the swap is taken and the drain begins
with a fence on every port that is UP, and it ends at once when the tracker holds nothing. -/
def Obligations.CommitIsTaken : Prop :=
  ∀ (s : State) (slot : CommandSlot) (rest : List CommandSlot), Takes .commit [] slot rest s →
    let gen := s.steering.generation
    let cools := (∃ m ∈ s.tracker.cooling, m.tag = 126 ∨ m.tag = 127) ∨
      (s.port .u).fenceSlot ≠ none ∨ (s.port .d).fenceSlot ≠ none
    (s.commit.state = .draining →
      exec .commit s = .next (answered slot rest ⟨.busy, 1⟩ 1 s)) ∧
    (s.commit.state = .idle → cools → exec .commit s = .next (answered slot rest ⟨.busy, 2⟩ 1 s)) ∧
    (s.commit.state = .idle → ¬cools →
      let fence := fun (p : Port) (tag : Tag) =>
        if (s.port p).state = .up then
          [({ tag := tag, state := .awaiting, kind := .drainFence, origin := none, egress := p
              dest := (s.port p).partnerUnit.getD 0, address := 0, expected := 0, label := 0
              generation := gen, timeout := s.mgmt.params.replyTimeout, dispatched := s.timebase
              deadline := s.timebase + s.mgmt.params.replyTimeout } : TrackEntry)]
        else []
      let fenced := fun (p : Port) (tag : Tag) =>
        if (s.port p).state = .up then
          { s.port p with
            fenceSlot := some ⟨⟨.fence, s.mgmt.params.unit.get p, (s.port p).partnerUnit.getD 0, tag,
              0, 0, 0, []⟩, (s.port p).nextStamp⟩
            nextStamp := (s.port p).nextStamp + 1 }
        else s.port p
      let entries := s.tracker.entries ++ fence .u 126 ++ fence .d 127
      let fenceState := fun p => match (s.port p).state with
        | .up => FenceState.outstanding
        | .retraining => .skipped
        | .offline | .training | .faulted => .none
      let skipped := decide ((s.port .u).state = .retraining ∨ (s.port .d).state = .retraining)
      let swapped : State := { s with
        steering := { s.steering with
          active := s.steering.staging.map fun e =>
            match s.steering.active.find? fun a => a.entry = e with
            | some a => a
            | none => ⟨e, 0, gen + 1⟩
          generation := gen + 1 }
        tracker := { s.tracker with entries := entries }
        ports := ⟨fenced .u 126, fenced .d 127⟩ }
      let started : Commit := { s.commit with
        state := .draining, drainGeneration := gen, remaining := entries.length
        fences := ⟨fenceState .u, fenceState .d⟩, late := ⟨false, false, false, skipped⟩
        forced := false, accepted := s.timebase }
      let result : Result := ⟨.accepted, (gen + 1).setWidth 32⟩
      (entries ≠ [] → exec .commit s =
        .next (answered slot rest result 0 (unmarked { swapped with commit := started }))) ∧
      (entries = [] →
        let ended := { started with
          state := .idle, lastOutcome := if skipped then .late else .clean, done := s.timebase }
        exec .commit s = .next (answered slot rest result 0
          (unmarked (noticed (commitDoneFor ended) { swapped with commit := ended })))))

/-- FORCE_DRAIN: refused NOT_DRAINING in IDLE. During a drain every entry of the drain generation is acted
on: an AWAITING request or FENCE closes with ABORTED, an ORPHANED entry and a drain fence are removed to
the cooling set, a CLOSING entry stays. The drain ends FORCED when none is left, and the value is the
number left. -/
def Obligations.DrainIsForced : Prop :=
  ∀ (s : State) (slot : CommandSlot) (rest : List CommandSlot), Takes .forceDrain [] slot rest s →
    (s.commit.state = .idle → exec .forceDrain s = .next (refusedWith slot rest .notDraining s)) ∧
    (s.commit.state = .draining →
      let gone := fun e : TrackEntry => e.generation = s.commit.drainGeneration ∧
        (e.state = .orphaned ∨ e.state = .awaiting ∧ e.kind = .drainFence)
      let kept := (s.tracker.entries.filter fun e => ¬gone e).map fun e =>
        if e.generation = s.commit.drainGeneration ∧ e.state = .awaiting then
          { e with state := .closing .aborted s.events }
        else e
      let removed := s.tracker.entries.filter fun e => gone e
      let commit := drainEnded s.timebase kept { s.commit with
        forced := true
        late := { s.commit.late with
          aborted := s.commit.late.aborted || decide (removed ≠ []) }
        fences := removed.foldl (fun fences e =>
          if e.kind = .drainFence then fences.set e.egress .aborted else fences) s.commit.fences }
      let t := { s with
        tracker := { s.tracker with
          entries := kept
          cooling := s.tracker.cooling ++
            removed.map fun e => ⟨e.tag, s.timebase + e.timeout⟩ }
        commit := commit
        events := s.events + 1 }
      exec .forceDrain s = .next (answered slot rest ⟨.done, BitVec.ofNat 32 commit.remaining⟩ 0
        (maybeNoticed (if commit.state = .idle then some (commitDoneFor commit) else none) t)))

/-- SET_PARAM, by the code of the parameter and its value bytes: a code that names no parameter and a value
out of its range are refused BAD_FIELD; otherwise the parameter takes the value where the conditions of
R123 and R124 hold. A changed default action or bridge unit clears the wait marks. That value bytes to
which Table 11-6 gives no field of the parameter are ignored is the model's choice
(notes/assumptions/41.md). That a value equal to the one in force is accepted before the other tests is the
model's reading (notes/assumptions/24.md). -/
def Obligations.ParameterIsSet : Prop :=
  ∀ (s : State) (slot : CommandSlot) (rest : List CommandSlot) (body : List Byte),
    Takes .setParam body slot rest s →
    let ps := s.mgmt.params
    let code := (byteAt body 0).toNat
    let refused := exec .setParam s = .next (refusedWith slot rest .badField s)
    let set := fun (t : State) => exec .setParam s = .next (answered slot rest ⟨.done, 0⟩ 0 t)
    let withParams := fun (ps : Params) => { s with mgmt := { s.mgmt with params := ps } }
    let micros := field body 2 4
    (code = 0 ∨ 9 < code → refused) ∧
    (code = 1 →
      (100 ≤ micros ∧ micros ≤ 2000000 →
        set (withParams { ps with replyTimeout := BitVec.ofNat 32 micros })) ∧
      (micros < 100 ∨ 2000000 < micros → refused)) ∧
    (code = 2 →
      (10 ≤ micros ∧ micros ≤ 1000000 →
        set (withParams { ps with holdLimit := BitVec.ofNat 32 micros })) ∧
      (micros < 10 ∨ 1000000 < micros → refused)) ∧
    (∀ p, code = (match p with
        | .u => 3
        | .d => 4) →
      (byteAt body 2 ≠ 1 → byteAt body 2 ≠ 2 → refused) ∧
      ∀ a : DefaultAction, byteAt body 2 = 1 ∧ a = .refuse ∨
          byteAt body 2 = 2 ∧ a = .pass (BitVec.ofNat 5 (field body 3 1)) →
        (a = .pass (ps.unit.get (otherPort p)) → refused) ∧
        (a ≠ .pass (ps.unit.get (otherPort p)) → s.steering.defaults.get p = a → set s) ∧
        (a ≠ .pass (ps.unit.get (otherPort p)) → s.steering.defaults.get p ≠ a →
          set (unmarked { s with steering :=
            { s.steering with defaults := s.steering.defaults.set p a } }))) ∧
    (code = 5 →
      let unit : UnitNo := BitVec.ofNat 5 (field body 8 1)
      let enable := byteAt body 9
      let allowed := field body 2 6 % 32 = 0 ∧ (enable = 0 ∨ enable = 1) ∧ unit ≠ ps.unit.u
      (¬allowed → refused) ∧
      (allowed → set (withParams { ps with
        noticeTarget := ⟨BitVec.ofNat 48 (field body 2 6), unit, enable = 1⟩ }))) ∧
    (∀ p, code = (match p with
        | .u => 6
        | .d => 7) →
      let n : UnitNo := BitVec.ofNat 5 (field body 2 1)
      let barred := (∃ a ∈ s.steering.active, a.entry.target = some n ∧ LeavesBy a.entry p) ∨
        (∃ e ∈ s.steering.staging, e.target = some n ∧ LeavesBy e p) ∨
        s.steering.defaults.get (otherPort p) = .pass n ∨ p = .u ∧ ps.noticeTarget.unit = n
      (ps.unit.get p = n → set s) ∧
      (ps.unit.get p ≠ n → barred → refused) ∧
      (ps.unit.get p ≠ n → ¬barred →
        set (unmarked (withParams { ps with unit := ps.unit.set p n })))) ∧
    ∀ p, code = (match p with
        | .u => 8
        | .d => 9) →
      ((∀ o, ¬Offers o (byteAt body 2) (byteAt body 3)) → refused) ∧
      ∀ o, Offers o (byteAt body 2) (byteAt body 3) →
        set (withParams { ps with linkPref := ps.linkPref.set p o })

/-- The accesses at the head of the command queue that execute nothing: a malformed command block, which is
one that R119 and Table 11-4 do not make a block of a command; an access outside the aperture map; and one
from a unit outside the manager set, which raises an APERTURE_MISUSE notice. -/
def Obligations.HeadAccessIsTurnedAway : Prop :=
  (∀ (bytes : List Byte) (code : CommandCode) (body : List Byte),
     parseBlock bytes = some (code, body) ↔ BlockOf bytes code body) ∧
  ∀ (s : State) (slot : CommandSlot) (rest : List CommandSlot),
    s.hold.release = none → s.mgmt.queue = slot :: rest → slot.state = .waiting →
    let o := slot.offset
    let last := slot.offset + slot.length.toNat - 1
    let within := fun (a b : Nat) => a ≤ o ∧ last ≤ b
    let replyFormed := fun (status : ReplyStatus) (t : State) => { t with mgmt := { t.mgmt with
      queue := { slot with state := .answerReady ⟨status, [], false⟩ } :: rest } }
    (s.mgmt.managers.getLsbD slot.source.toNat = false →
      exec .notManagerRefusal s = .next (replyFormed .refused (noticed
        { kind := .apertureMisuse, port := some .u, unit := slot.source, tag := slot.tag
          address := slot.address, label := 0, generation := s.steering.generation, detail := 2 }
        s))) ∧
    (s.mgmt.managers.getLsbD slot.source.toNat = true →
      (slot.kind = .writeAck → within 0 0xFF → (∀ code body, ¬BlockOf slot.payload code body) →
        exec .malformedCommandBlock s = .next (refusedWith slot rest .malformed s)) ∧
      (¬(slot.kind = .writeAck ∧ within 0 0xFF) →
        ¬(slot.kind = .read ∧ (within 0x1000 0x107F ∨ within 0x2000 0x2FFF ∨
          within 0x3000 0x3FFF ∨ within 0x5000 0x51FF ∨ o = 0x4000 ∧ slot.length = 32)) →
        exec .unsupportedApertureAccess s = .next (replyFormed .unsupported s)))

/-! ### Batches -/

/-- A BATCH at the head of the command queue. The parse pass succeeds on a body of 1 to 16 blocks and no
more; it fails at member 1 of an empty body, at member 17 after sixteen, and at the first member that no
bytes from its place on make a block. A body that fails it is MALFORMED at that member. The execution pass
carries out a member as the command it holds, and stops at the first failure with that member's result and
index; the last member's result is the batch's, with index 0. A RELEASE member holds the batch. WARM_RESET,
BATCH and a COMMIT that is not last are NOT_ALLOWED. How many members one BATCH command carries out is the
model's choice (notes/assumptions/11.md). -/
def Obligations.BatchIsCarriedOut : Prop :=
  (∀ (blocks : List (List Byte)) (members : List (CommandCode × List Byte)) (rest : List Byte),
    blocks.map parseBlock = members.map some →
    let parsed := parseMembers (blocks.flatten ++ rest)
    (rest = [] → members = [] → parsed = .failed 1) ∧
    (rest = [] → 1 ≤ members.length → members.length ≤ 16 → parsed = .parsed members) ∧
    (rest ≠ [] → members.length < 16 → (∀ n, parseBlock (rest.take n) = none) →
      parsed = .failed (members.length + 1)) ∧
    (rest ≠ [] → members.length = 16 → parsed = .failed 17)) ∧
  (∀ (s : State) (slot : CommandSlot) (rest : List CommandSlot) (body : List Byte) (n : Nat),
    Takes .batch body slot rest s →
    (∀ i, parseMembers body = .failed i →
      exec (.batch n) s = .next (answered slot rest ⟨.malformed, 0⟩ i s)) ∧
    (∀ todo, parseMembers body = .parsed todo →
      exec (.batch n) s = exec (.batch n) (batchGoesOn slot rest ⟨todo, 1, ⟨.done, 0⟩⟩ s))) ∧
  (∀ (s : State) (slot : CommandSlot) (rest : List CommandSlot) (run : BatchRun) (n : Nat)
    (code : CommandCode) (body : List Byte) (more : List (CommandCode × List Byte)),
    s.hold.release = none → s.mgmt.queue = slot :: rest → slot.state = .executingBatch run →
    run.todo = (code, body) :: more →
    (∀ r t, runMember code body more.isEmpty s = .finished r t →
      (r.code ≠ .done ∧ r.code ≠ .accepted →
        exec (.batch (n + 1)) s = .next (answered slot rest r run.index t)) ∧
      (r.code = .done ∨ r.code = .accepted →
        (more = [] → exec (.batch (n + 1)) s = .next (answered slot rest r 0 t)) ∧
        (more ≠ [] → exec (.batch (n + 1)) s =
          exec (.batch n) (batchGoesOn slot rest ⟨more, run.index + 1, r⟩ t)))) ∧
    (∀ t, runMember code body more.isEmpty s = .suspended t →
      exec (.batch (n + 1)) s = .next (batchGoesOn slot rest { run with todo := more } t))) ∧
  ∀ (s : State) (slot : CommandSlot) (rest : List CommandSlot) (code : CommandCode)
    (body : List Byte) (last : Bool),
    (code = .warmReset ∨ code = .batch ∨ code = .commit ∧ last = false →
      runMember code body last s = .finished ⟨.notAllowed, 0⟩ s) ∧
    (code ≠ .warmReset → code ≠ .batch → code ≠ .release → (code = .commit → last = true) →
      Takes code body slot rest s →
      ∃ r t, runMember code body last s = .finished r t ∧
        exec (commandOf code) s = .next (answered slot rest r
          (if r.code = .done ∨ r.code = .accepted then 0 else 1) t))

/-! ### Replies of aperture accesses -/

/-- The reply of the access at the head of the command queue is placed when U's C transmit queue takes it,
and waits otherwise: the reply of an executed access, ABORTED for an access left behind a warm reset, and
the bytes of an area read, which are captured before they wait. An area read lies in one of the four ranges
of Table 6-1. The 8 bytes of a command's result, and the codes of the reply statuses. That an area read is
captured in this command (notes/assumptions/9.md), that a status read takes every group at this one event
(notes/assumptions/39.md), and which marks a freed slot clears (notes/assumptions/16.md) are the
model's. -/
def Obligations.AccessIsReplied : Prop :=
  (∀ (r : Result) (index : Nat), ShowsResult (resultBytes r index) r index) ∧
  (∀ status : ReplyStatus, status.code = statusByte status) ∧
  ∀ (s : State) (slot : CommandSlot) (rest : List CommandSlot), s.mgmt.queue = slot :: rest →
    (∀ status payload, slot.state = .answerReady ⟨status, payload, false⟩ →
      (TakesOffer .u .c s →
        exec .commandReplyPlacement s = .next (accessReplied slot rest status payload s)) ∧
      (¬TakesOffer .u .c s → exec .commandReplyPlacement s = .next s)) ∧
    (slot.state = .aborting →
      (TakesOffer .u .c s →
        exec .commandReplyPlacement s = .next (accessReplied slot rest .aborted [] s)) ∧
      (¬TakesOffer .u .c s → exec .commandReplyPlacement s = .next s)) ∧
    (∀ area, s.hold.release = none → slot.state = .waiting →
      s.mgmt.managers.getLsbD slot.source.toNat = true → slot.kind = .read →
      areaFirst area ≤ slot.offset → slot.offset + slot.length.toNat - 1 ≤ areaLast area →
      let bytes := readArea area slot.offset slot.length.toNat s
      (TakesOffer .u .c s →
        exec .commandReplyPlacement s = .next (accessReplied slot rest .ok bytes s)) ∧
      (¬TakesOffer .u .c s → exec .commandReplyPlacement s = .next { s with mgmt :=
        { s.mgmt with queue := { slot with state := .answerReady ⟨.ok, bytes, false⟩ } :: rest } }))

/-- The bytes of an area read within its area. A readback area gives the 64-byte record of each position,
and zeros past the count; the status area gives the bytes of the 128-byte status block. What the records
of Tables 11-7 and 11-8 and the status block of Table 11-10 show, field by field. -/
def Obligations.AreaReadGivesRecords : Prop :=
  (∀ (s : State) (area : Area) (o n : Nat), areaFirst area ≤ o → o + n ≤ areaLast area + 1 →
    (readArea area o n s).length = n ∧
    ∀ i < n,
      let j := o - areaFirst area + i
      let record := fun (l : List (List Byte)) => l.getD (j / 64) (List.replicate 64 0)
      (readArea area o n s)[i]? = match area with
        | .status => (statusBlock s)[j]?
        | .active => (record (s.steering.active.map activeRecord))[j % 64]?
        | .staging => (record (s.steering.staging.map stagingRecord))[j % 64]?
        | .hold => (record (s.hold.slots.map holdRecord))[j % 64]?) ∧
  (∀ a : ActiveEntry, ShowsListed (activeRecord a) a.entry a.hits a.origin) ∧
  (∀ e : Entry, ShowsListed (stagingRecord e) e 0 0) ∧
  (∀ h : HoldSlot, ShowsHeld (holdRecord h) h) ∧
  ∀ s : State,
    let block := statusBlock s
    block.length = 128 ∧ ShowsCommit block s ∧ ShowsCounts block s ∧
      ShowsPort block 0x30 (s.port .u) ∧ ShowsPort block 0x38 (s.port .d) ∧ ShowsManagement block s

/-! ### Warm reset -/

/-- WARM_RESET forms its reply and resets nothing. When that reply is placed, every block takes the warm
reset: the pinned entries and their counts are kept, the defaults and four parameters return to their
cold values, the generation rises, ingress P packets are discarded and N packets marked aborted, the
tracker's and the Hold Queue's requests close with ABORTED, a drain ends ABANDONED, and the accesses
behind it turn ABORTING. WARM_RESET_DONE is raised after every other notice. A dispatcher's pointer does
not move at the end of its dispatch (notes/assumptions/29.md), and completion reports on their way are
kept (notes/assumptions/33.md): these are the model's readings. So are what the marks record, all of which
are cleared (notes/assumptions/16.md), and the order of the other notices (notes/assumptions/5.md). -/
def Obligations.WarmResetIsPerformed : Prop :=
  (∀ (s : State) (slot : CommandSlot) (rest : List CommandSlot), Takes .warmReset [] slot rest s →
    exec .warmReset s = .next { s with mgmt := { s.mgmt with queue :=
      { slot with state := .answerReady ⟨.ok, resultBytes ⟨.done, 0⟩ 0, true⟩ } :: rest } }) ∧
  ∀ (s : State) (slot : CommandSlot) (rest : List CommandSlot) (status : ReplyStatus)
    (payload : List Byte),
    s.mgmt.queue = slot :: rest → slot.state = .answerReady ⟨status, payload, true⟩ →
    (¬TakesOffer .u .c s → exec .commandReplyPlacement s = .next s) ∧
    (TakesOffer .u .c s →
      let u := accessReplied slot rest status payload s
      let gen := s.steering.generation + 1
      let kept := s.steering.active.filter fun a => a.entry.pinned
      ∃ t, exec .commandReplyPlacement s = .next t ∧
        t.steering = { s.steering with
          active := kept, staging := kept.map (·.entry), generation := gen
          defaults := ⟨.refuse, .refuse⟩ } ∧
        t.mgmt = { u.mgmt with
          queue := rest.map fun k => { k with state := .aborting }
          params := { s.mgmt.params with
            replyTimeout := 20000, holdLimit := 1000
            linkPref := ⟨⟨.x4, .g20⟩, ⟨.x4, .g20⟩⟩ } } ∧
        (∀ p,
          let lp := u.port p;
          let tagged := match (s.dispatcher p).work with
            | some (.place _ _) => true
            | _ => false
          let n := if tagged then lp.ingress.n.tail else lp.ingress.n;
          t.port p = { lp with
            ingress := ⟨[], n.map fun k => { k with aborted := true }, lp.ingress.c⟩
            ackOwed := lp.ackOwed || decide (lp.ingress.p ≠ []) ||
              tagged && decide (lp.ingress.n ≠ []) } ∧
          t.dispatcher p = { s.dispatcher p with marks := ⟨[], [], []⟩, work := none }) ∧
        t.tracker = { s.tracker with
          entries := (s.tracker.entries.filter fun e =>
              ¬(e.state = .orphaned ∨ e.state = .awaiting ∧ e.kind = .drainFence)).map fun e =>
            { e with
              generation := gen
              state := if e.state = .awaiting then .closing .aborted s.events else e.state }
          cooling := s.tracker.cooling ++
            (s.tracker.entries.filter fun e =>
              e.state = .orphaned ∨ e.state = .awaiting ∧ e.kind = .drainFence).map
              (fun e => ⟨e.tag, s.timebase + e.timeout⟩) } ∧
        t.hold = { s.hold with
          slots := (s.hold.slots.filter fun h =>
              ¬(isHeld h = true ∧ h.request.kind = .write)).map
            (fun h => if isHeld h then
                { h with state := .answering .aborted (s.events + 1) }
              else h) } ∧
        (s.commit.state = .idle → t.commit = s.commit) ∧
        (s.commit.state = .draining → t.commit = { s.commit with
          state := .idle, remaining := 0
          fences := ⟨if s.commit.fences.u = .outstanding then .aborted else s.commit.fences.u,
            if s.commit.fences.d = .outstanding then .aborted else s.commit.fences.d⟩
          lastOutcome := .abandoned, done := s.timebase }) ∧
        (let drops := (s.hold.slots.filter fun h => isHeld h).map (holdNoticed .holdDropped)
          let ending := if s.commit.state = .draining then
              [commitDoneFor { s.commit with lastOutcome := .abandoned }]
            else []
          ∃ order : List NoticeReq, order.Perm (drops ++ ending) ∧ drops.Sublist order ∧
            t.notices = (order ++ [NoticeReq.mk .warmResetDone none 0 0 0 0 gen 0]).foldl
              (fun n r => n.take s.timebase r) s.notices) ∧
        t.timebase = s.timebase ∧ t.pending = s.pending)

/-! ### Notices -/

/-- A notice request is accepted with the next sequence number, the timebase and the waiting dropped count,
or dropped and counted, to 255 at most, when the queue holds 32 records. Every notice of a command is
raised so. -/
def Obligations.NoticeIsAcceptedOrDropped : Prop :=
  ∀ (r : NoticeReq) (s : State),
    (s.notices.queue.length < 32 → raise r s = { s with notices :=
      { queue := s.notices.queue ++ [⟨r, s.notices.nextSeq, s.timebase, s.notices.dropped⟩]
        nextSeq := s.notices.nextSeq + 1, dropped := 0 } }) ∧
    (32 ≤ s.notices.queue.length → raise r s = { s with notices :=
      { s.notices with
        dropped := if s.notices.dropped < 255 then s.notices.dropped + 1 else 255 } }) ∧
    noticed r s = raise r s

/-- The two ways a notice leaves. A pop takes the oldest record, or a NONE record of an empty queue, into a
reply in U's C transmit queue, and waits at the head without one while that queue is full. An emission
offer, kept while enabled with port U UP, takes the oldest record as a notice write into U's P transmit
queue, and waits while that is full. The bytes of a notice record, field by field. Which marks a freed
command queue slot clears is the model's reading (notes/assumptions/16.md), and an emission that is not
admitted changes nothing (notes/assumptions/1.md). -/
def Obligations.NoticeLeaves : Prop :=
  (∀ n : Notice, ShowsNotice (noticeRecord n) n) ∧
  ∀ s : State,
    (∀ (slot : CommandSlot) (rest : List CommandSlot), s.mgmt.queue = slot :: rest →
      slot.state = .popping ∨ slot.state = .waiting ∧ s.hold.release = none ∧
        s.mgmt.managers.getLsbD slot.source.toNat = true ∧ slot.kind = .read ∧
        slot.offset = 0x4000 ∧ slot.length = 32 →
      (TakesOffer .u .c s → exec .noticePop s = .next (accessReplied slot rest .ok
        (noticeRecord (match s.notices.queue with
          | n :: _ => n
          | [] => ⟨⟨.none, none, 0, 0, 0, 0, 0, 0⟩, s.notices.nextSeq, s.timebase,
              s.notices.dropped⟩))
        { s with notices := { s.notices with queue := s.notices.queue.tail } })) ∧
      (¬TakesOffer .u .c s → exec .noticePop s = .next { s with mgmt :=
        { s.mgmt with queue := { slot with state := .popping } :: rest } })) ∧
    (let target := s.mgmt.params.noticeTarget;
      (target.enable = true → (s.port .u).state = .up →
        ∀ n rest, s.notices.queue = n :: rest →
        (TakesOffer .u .p s → exec .noticeEmission s = .next (queued .u .p
          ⟨.write, s.mgmt.params.unit.u, target.unit, 0, 32, 0, target.address, noticeRecord n⟩
          { s with notices := { s.notices with queue := rest } })) ∧
        (¬TakesOffer .u .p s → exec .noticeEmission s = .next s)) ∧
      (target.enable = false ∨ (s.port .u).state ≠ .up ∨ s.notices.queue = [] →
        exec .noticeEmission s = .next s))

/-! ### The lookup -/

/-- The decision of a lookup: the first candidate of the Active List whose window the range is contained in
or straddles decides, with its action or BOUNDARY; when none does, the default action of the arrival port.
The decision carries the current generation, the steered address of R19 and the times of R20. It gives the
fields of the decision as well (R16 to R21). -/
def Obligations.FirstCandidateDecides : Prop :=
  ∀ (s : State) (release : Bool) (r : Request),
    let dec := s.lookup release r
    let ps := s.mgmt.params
    dec.generation = s.steering.generation ∧
    (∀ before a after, s.steering.active = before ++ a :: after →
      (∀ b ∈ before, PassedOver release r b.entry) → Candidate release r a.entry →
      let e := a.entry
      let address := e.translated.getD 0 + (r.address - e.base)
      let timeout := e.replyTimeout.getD ps.replyTimeout;
      (Contained r e → dec.label = e.label ∧
        (e.action = .forward →
          dec.ruling = .steer .forward (otherPort r.port) (e.target.getD 0) address timeout) ∧
        (e.action = .reflect →
          dec.ruling = .steer .reflect r.port (e.target.getD 0) address timeout) ∧
        (e.action = .refuse → dec.ruling = .refuse (e.notify.getD false)) ∧
        (e.action = .hold → dec.ruling = .hold (e.holdLimit.getD ps.holdLimit))) ∧
      (¬Contained r e → Overlaps r e → dec.label = e.label ∧ dec.ruling = .boundary)) ∧
    ((∀ a ∈ s.steering.active, PassedOver release r a.entry) → dec.label = 0 ∧
      (s.steering.defaults.get r.port = .refuse → dec.ruling = .defaultRefuse) ∧
      ∀ unit, s.steering.defaults.get r.port = .pass unit →
        dec.ruling = .steer .pass (otherPort r.port) unit r.address ps.replyTimeout)

/-! ### Encodings -/

/-- Which bytes are a packet and what they are read as: bytes that end in a good check code and fill the
frame of their kind are read field by field, and any others are a discarded link-control packet or a
damaged packet. The bytes of a packet of the three channels that the part sends, field by field, which read
back as the packet with its sequence number, and the TRAINs, ACKs and REPLAY_REQs, which read back with
their fields. A field has its least significant byte first. The check code is the last 4 bytes and whatever
function of the bytes before it it is (notes/assumptions/4.md). -/
def Obligations.SentPacketsReadBack : Prop :=
  (∀ (bytes : List Byte) (off n v : Nat), field bytes off 0 = 0 ∧
    field bytes off (n + 1) = (byteAt bytes off).toNat + 256 * field bytes (off + 1) n ∧
    (toLE n v).length = n ∧ field (toLE n v) 0 n = v % 256 ^ n) ∧
  (∀ body : List Byte, (sealed body).length = body.length + 4 ∧ body <+: sealed body ∧
    field (sealed body) body.length 4 = (Config.checkCode body).toNat) ∧
  (∀ (body : List Byte) (f : Frame), ReadsAs body f → readWire (sealed body) = f) ∧
  (∀ bytes : List Byte, (∀ body f, bytes = sealed body → ¬ReadsAs body f) →
    readWire bytes =
      if byteAt bytes 0 = 0x10 ∨ byteAt bytes 0 = 0x11 ∨ byteAt bytes 0 = 0x12 then .discarded
      else .damaged) ∧
  (∀ (pkt : Packet) (seq : SeqNo), PacketAllowed pkt →
    ShowsPacket (packetBytes pkt seq) pkt seq ∧
      readWire (sealed (packetBytes pkt seq)) = .traffic pkt seq) ∧
  (∀ (mode : Mode) (o : Offer), ∃ lanes rate, Offers o lanes rate ∧
    readWire (sealed (speedBytes mode o)) = .speed (modeByte mode) lanes rate) ∧
  (∀ (unit : UnitNo) (free : Trio Nat) (last : SeqNo),
    free.p < 256 → free.n < 256 → free.c < 256 →
    readWire (sealed (identBytes unit free last)) = .ident unit free last ∧
      readWire (sealed (ackBytes last free)) = .ack last free) ∧
  readWire (sealed readyBytes) = .ready ∧
  ∀ seq : SeqNo, readWire (sealed (replayReqBytes seq)) = .replayReq seq

/-- The image of a valid steering entry reads back as the entry: what a readback record shows of an entry
is what an INSERT of that image places. -/
def Obligations.EntryImageReadsBack : Prop :=
  ∀ (units : Duo UnitNo) (e : Entry), ValidEntry units e →
    let img := entryImage e
    entryOfImage img = some e ∧ (stagingRecord e).take 40 = img ∧
      (∀ hits origin, (activeRecord ⟨e, hits, origin⟩).take 40 = img) ∧
      ArrivalCode (byteAt img 2) e.arrival ∧ KindsCode (byteAt img 3) e.kinds ∧
      ActionCode (byteAt img 14) e.action ∧ PresenceAllowed img ∧
      imageEntry img e.arrival e.kinds e.action = e

/-! ### The laws of the part -/

/-- The laws hold after cold reset. -/
def Obligations.LawsHoldAtReset : Prop :=
  TrackerLaws State.reset ∧ ListLaws State.reset ∧ (∀ p, PortLaws p (State.reset.port p)) ∧
    QueueLaws State.reset

/-- Every step keeps the laws of the tracker and the drain. -/
def Obligations.TrackerLawsAreKept : Prop := KeptByStep TrackerLaws

/-- Every step keeps the laws of the lists. -/
def Obligations.ListLawsAreKept : Prop := KeptByStep ListLaws

/-- Every step keeps the laws of the link ports. -/
def Obligations.PortLawsAreKept : Prop := KeptByStep fun s => ∀ p, PortLaws p (s.port p)

/-- Every step keeps the laws of the Hold Queue's, the Management Unit's and the Notice Unit's queues. -/
def Obligations.QueueLawsAreKept : Prop := KeptByStep QueueLaws

/-- What lasts until a cold reset: no other command removes, changes or reorders a pinned Active entry,
clears the manager lock, or changes the manager set under it. -/
def Obligations.PinnedEntriesAndLockLast : Prop :=
  ∀ (c : Instr) (s t : State), ListLaws s → (∀ strap, c ≠ .coldReset strap) → exec c s = .next t →
    ((s.steering.active.map (·.entry)).filter (·.pinned)).Sublist
      ((t.steering.active.map (·.entry)).filter (·.pinned)) ∧
    (s.mgmt.locked = true → t.mgmt.locked = true ∧ t.mgmt.managers = s.mgmt.managers)
end

