-- ==== Sys2Proof/Laws/State.lean ====
section
/-! SUPPORT. What each update of the state leaves in each field: one lemma per field per update, so that no
later proof unfolds a record update. -/

namespace Sys2Proof.Machine

variable (s : State)

/-! ### `setPort` -/

@[simp] theorem State.setPort_timebase (p : Port) (lp : LinkPort) : (s.setPort p lp).timebase = s.timebase := rfl
@[simp] theorem State.setPort_dispatchers (p : Port) (lp : LinkPort) : (s.setPort p lp).dispatchers = s.dispatchers := rfl
@[simp] theorem State.setPort_steering (p : Port) (lp : LinkPort) : (s.setPort p lp).steering = s.steering := rfl
@[simp] theorem State.setPort_tracker (p : Port) (lp : LinkPort) : (s.setPort p lp).tracker = s.tracker := rfl
@[simp] theorem State.setPort_hold (p : Port) (lp : LinkPort) : (s.setPort p lp).hold = s.hold := rfl
@[simp] theorem State.setPort_commit (p : Port) (lp : LinkPort) : (s.setPort p lp).commit = s.commit := rfl
@[simp] theorem State.setPort_mgmt (p : Port) (lp : LinkPort) : (s.setPort p lp).mgmt = s.mgmt := rfl
@[simp] theorem State.setPort_notices (p : Port) (lp : LinkPort) : (s.setPort p lp).notices = s.notices := rfl
@[simp] theorem State.setPort_events (p : Port) (lp : LinkPort) : (s.setPort p lp).events = s.events := rfl
@[simp] theorem State.setPort_pending (p : Port) (lp : LinkPort) : (s.setPort p lp).pending = s.pending := rfl
@[simp] theorem State.setPort_ports (p : Port) (lp : LinkPort) :
    (s.setPort p lp).ports = s.ports.set p lp := rfl

/-! ### `setDispatcher` -/

@[simp] theorem State.setDispatcher_timebase (p : Port) (d : Dispatcher) : (s.setDispatcher p d).timebase = s.timebase := rfl
@[simp] theorem State.setDispatcher_ports (p : Port) (d : Dispatcher) : (s.setDispatcher p d).ports = s.ports := rfl
@[simp] theorem State.setDispatcher_steering (p : Port) (d : Dispatcher) : (s.setDispatcher p d).steering = s.steering := rfl
@[simp] theorem State.setDispatcher_tracker (p : Port) (d : Dispatcher) : (s.setDispatcher p d).tracker = s.tracker := rfl
@[simp] theorem State.setDispatcher_hold (p : Port) (d : Dispatcher) : (s.setDispatcher p d).hold = s.hold := rfl
@[simp] theorem State.setDispatcher_commit (p : Port) (d : Dispatcher) : (s.setDispatcher p d).commit = s.commit := rfl
@[simp] theorem State.setDispatcher_mgmt (p : Port) (d : Dispatcher) : (s.setDispatcher p d).mgmt = s.mgmt := rfl
@[simp] theorem State.setDispatcher_notices (p : Port) (d : Dispatcher) : (s.setDispatcher p d).notices = s.notices := rfl
@[simp] theorem State.setDispatcher_events (p : Port) (d : Dispatcher) : (s.setDispatcher p d).events = s.events := rfl
@[simp] theorem State.setDispatcher_pending (p : Port) (d : Dispatcher) : (s.setDispatcher p d).pending = s.pending := rfl
@[simp] theorem State.setDispatcher_dispatchers (p : Port) (d : Dispatcher) :
    (s.setDispatcher p d).dispatchers = s.dispatchers.set p d := rfl

/-! ### `setTracker` -/

@[simp] theorem setTracker_timebase (t : Tracker) : (setTracker t s).timebase = s.timebase := rfl
@[simp] theorem setTracker_ports (t : Tracker) : (setTracker t s).ports = s.ports := rfl
@[simp] theorem setTracker_dispatchers (t : Tracker) : (setTracker t s).dispatchers = s.dispatchers := rfl
@[simp] theorem setTracker_steering (t : Tracker) : (setTracker t s).steering = s.steering := rfl
@[simp] theorem setTracker_hold (t : Tracker) : (setTracker t s).hold = s.hold := rfl
@[simp] theorem setTracker_commit (t : Tracker) : (setTracker t s).commit = s.commit := rfl
@[simp] theorem setTracker_mgmt (t : Tracker) : (setTracker t s).mgmt = s.mgmt := rfl
@[simp] theorem setTracker_notices (t : Tracker) : (setTracker t s).notices = s.notices := rfl
@[simp] theorem setTracker_events (t : Tracker) : (setTracker t s).events = s.events := rfl
@[simp] theorem setTracker_pending (t : Tracker) : (setTracker t s).pending = s.pending := rfl
@[simp] theorem setTracker_tracker (t : Tracker) :
    (setTracker t s).tracker = t := rfl

/-! ### `setHold` -/

@[simp] theorem setHold_timebase (h : HoldQueue) : (setHold h s).timebase = s.timebase := rfl
@[simp] theorem setHold_ports (h : HoldQueue) : (setHold h s).ports = s.ports := rfl
@[simp] theorem setHold_dispatchers (h : HoldQueue) : (setHold h s).dispatchers = s.dispatchers := rfl
@[simp] theorem setHold_steering (h : HoldQueue) : (setHold h s).steering = s.steering := rfl
@[simp] theorem setHold_tracker (h : HoldQueue) : (setHold h s).tracker = s.tracker := rfl
@[simp] theorem setHold_commit (h : HoldQueue) : (setHold h s).commit = s.commit := rfl
@[simp] theorem setHold_mgmt (h : HoldQueue) : (setHold h s).mgmt = s.mgmt := rfl
@[simp] theorem setHold_notices (h : HoldQueue) : (setHold h s).notices = s.notices := rfl
@[simp] theorem setHold_events (h : HoldQueue) : (setHold h s).events = s.events := rfl
@[simp] theorem setHold_pending (h : HoldQueue) : (setHold h s).pending = s.pending := rfl
@[simp] theorem setHold_hold (h : HoldQueue) :
    (setHold h s).hold = h := rfl

/-! ### `setMgmt` -/

@[simp] theorem setMgmt_timebase (m : Management) : (setMgmt m s).timebase = s.timebase := rfl
@[simp] theorem setMgmt_ports (m : Management) : (setMgmt m s).ports = s.ports := rfl
@[simp] theorem setMgmt_dispatchers (m : Management) : (setMgmt m s).dispatchers = s.dispatchers := rfl
@[simp] theorem setMgmt_steering (m : Management) : (setMgmt m s).steering = s.steering := rfl
@[simp] theorem setMgmt_tracker (m : Management) : (setMgmt m s).tracker = s.tracker := rfl
@[simp] theorem setMgmt_hold (m : Management) : (setMgmt m s).hold = s.hold := rfl
@[simp] theorem setMgmt_commit (m : Management) : (setMgmt m s).commit = s.commit := rfl
@[simp] theorem setMgmt_notices (m : Management) : (setMgmt m s).notices = s.notices := rfl
@[simp] theorem setMgmt_events (m : Management) : (setMgmt m s).events = s.events := rfl
@[simp] theorem setMgmt_pending (m : Management) : (setMgmt m s).pending = s.pending := rfl
@[simp] theorem setMgmt_mgmt (m : Management) :
    (setMgmt m s).mgmt = m := rfl

/-! ### `setParams` -/

@[simp] theorem setParams_timebase (ps : Params) : (setParams ps s).timebase = s.timebase := rfl
@[simp] theorem setParams_ports (ps : Params) : (setParams ps s).ports = s.ports := rfl
@[simp] theorem setParams_dispatchers (ps : Params) : (setParams ps s).dispatchers = s.dispatchers := rfl
@[simp] theorem setParams_steering (ps : Params) : (setParams ps s).steering = s.steering := rfl
@[simp] theorem setParams_tracker (ps : Params) : (setParams ps s).tracker = s.tracker := rfl
@[simp] theorem setParams_hold (ps : Params) : (setParams ps s).hold = s.hold := rfl
@[simp] theorem setParams_commit (ps : Params) : (setParams ps s).commit = s.commit := rfl
@[simp] theorem setParams_notices (ps : Params) : (setParams ps s).notices = s.notices := rfl
@[simp] theorem setParams_events (ps : Params) : (setParams ps s).events = s.events := rfl
@[simp] theorem setParams_pending (ps : Params) : (setParams ps s).pending = s.pending := rfl
@[simp] theorem setParams_mgmt (ps : Params) :
    (setParams ps s).mgmt = { s.mgmt with params := ps } := rfl

/-! ### `raise` -/

@[simp] theorem raise_timebase (r : NoticeReq) : (raise r s).timebase = s.timebase := rfl
@[simp] theorem raise_ports (r : NoticeReq) : (raise r s).ports = s.ports := rfl
@[simp] theorem raise_dispatchers (r : NoticeReq) : (raise r s).dispatchers = s.dispatchers := rfl
@[simp] theorem raise_steering (r : NoticeReq) : (raise r s).steering = s.steering := rfl
@[simp] theorem raise_tracker (r : NoticeReq) : (raise r s).tracker = s.tracker := rfl
@[simp] theorem raise_hold (r : NoticeReq) : (raise r s).hold = s.hold := rfl
@[simp] theorem raise_commit (r : NoticeReq) : (raise r s).commit = s.commit := rfl
@[simp] theorem raise_mgmt (r : NoticeReq) : (raise r s).mgmt = s.mgmt := rfl
@[simp] theorem raise_events (r : NoticeReq) : (raise r s).events = s.events := rfl
@[simp] theorem raise_pending (r : NoticeReq) : (raise r s).pending = s.pending := rfl
@[simp] theorem raise_notices (r : NoticeReq) :
    (raise r s).notices = s.notices.take s.timebase r := rfl

/-! ### `clearMarks` -/

@[simp] theorem clearMarks_timebase (r : Resource) : (clearMarks r s).timebase = s.timebase := rfl
@[simp] theorem clearMarks_ports (r : Resource) : (clearMarks r s).ports = s.ports := rfl
@[simp] theorem clearMarks_steering (r : Resource) : (clearMarks r s).steering = s.steering := rfl
@[simp] theorem clearMarks_tracker (r : Resource) : (clearMarks r s).tracker = s.tracker := rfl
@[simp] theorem clearMarks_hold (r : Resource) : (clearMarks r s).hold = s.hold := rfl
@[simp] theorem clearMarks_commit (r : Resource) : (clearMarks r s).commit = s.commit := rfl
@[simp] theorem clearMarks_mgmt (r : Resource) : (clearMarks r s).mgmt = s.mgmt := rfl
@[simp] theorem clearMarks_notices (r : Resource) : (clearMarks r s).notices = s.notices := rfl
@[simp] theorem clearMarks_events (r : Resource) : (clearMarks r s).events = s.events := rfl
@[simp] theorem clearMarks_pending (r : Resource) : (clearMarks r s).pending = s.pending := rfl
@[simp] theorem clearMarks_dispatchers (r : Resource) :
    (clearMarks r s).dispatchers = s.dispatchers.map fun d => { d with marks := d.marks.map (clearMark r) } := rfl

/-! ### `clearAllMarks` -/

@[simp] theorem clearAllMarks_timebase : (clearAllMarks s).timebase = s.timebase := rfl
@[simp] theorem clearAllMarks_ports : (clearAllMarks s).ports = s.ports := rfl
@[simp] theorem clearAllMarks_steering : (clearAllMarks s).steering = s.steering := rfl
@[simp] theorem clearAllMarks_tracker : (clearAllMarks s).tracker = s.tracker := rfl
@[simp] theorem clearAllMarks_hold : (clearAllMarks s).hold = s.hold := rfl
@[simp] theorem clearAllMarks_commit : (clearAllMarks s).commit = s.commit := rfl
@[simp] theorem clearAllMarks_mgmt : (clearAllMarks s).mgmt = s.mgmt := rfl
@[simp] theorem clearAllMarks_notices : (clearAllMarks s).notices = s.notices := rfl
@[simp] theorem clearAllMarks_events : (clearAllMarks s).events = s.events := rfl
@[simp] theorem clearAllMarks_pending : (clearAllMarks s).pending = s.pending := rfl
@[simp] theorem clearAllMarks_dispatchers :
    (clearAllMarks s).dispatchers = s.dispatchers.map fun d => { d with marks := ⟨[], [], []⟩ } := rfl

/-! ### `enqueue` -/

@[simp] theorem enqueue_timebase (p : Port) (ch : Chan) (pkt : Packet) : (enqueue p ch pkt s).timebase = s.timebase := rfl
@[simp] theorem enqueue_dispatchers (p : Port) (ch : Chan) (pkt : Packet) : (enqueue p ch pkt s).dispatchers = s.dispatchers := rfl
@[simp] theorem enqueue_steering (p : Port) (ch : Chan) (pkt : Packet) : (enqueue p ch pkt s).steering = s.steering := rfl
@[simp] theorem enqueue_tracker (p : Port) (ch : Chan) (pkt : Packet) : (enqueue p ch pkt s).tracker = s.tracker := rfl
@[simp] theorem enqueue_hold (p : Port) (ch : Chan) (pkt : Packet) : (enqueue p ch pkt s).hold = s.hold := rfl
@[simp] theorem enqueue_commit (p : Port) (ch : Chan) (pkt : Packet) : (enqueue p ch pkt s).commit = s.commit := rfl
@[simp] theorem enqueue_mgmt (p : Port) (ch : Chan) (pkt : Packet) : (enqueue p ch pkt s).mgmt = s.mgmt := rfl
@[simp] theorem enqueue_notices (p : Port) (ch : Chan) (pkt : Packet) : (enqueue p ch pkt s).notices = s.notices := rfl
@[simp] theorem enqueue_events (p : Port) (ch : Chan) (pkt : Packet) : (enqueue p ch pkt s).events = s.events := rfl
@[simp] theorem enqueue_pending (p : Port) (ch : Chan) (pkt : Packet) : (enqueue p ch pkt s).pending = s.pending := rfl
@[simp] theorem enqueue_ports (p : Port) (ch : Chan) (pkt : Packet) :
    (enqueue p ch pkt s).ports = s.ports.set p ((s.ports.get p).enqueue ch pkt) := rfl

/-! ### `setWork` -/

@[simp] theorem setWork_timebase (p : Port) (w : Work) : (setWork p w s).timebase = s.timebase := rfl
@[simp] theorem setWork_ports (p : Port) (w : Work) : (setWork p w s).ports = s.ports := rfl
@[simp] theorem setWork_steering (p : Port) (w : Work) : (setWork p w s).steering = s.steering := rfl
@[simp] theorem setWork_tracker (p : Port) (w : Work) : (setWork p w s).tracker = s.tracker := rfl
@[simp] theorem setWork_hold (p : Port) (w : Work) : (setWork p w s).hold = s.hold := rfl
@[simp] theorem setWork_commit (p : Port) (w : Work) : (setWork p w s).commit = s.commit := rfl
@[simp] theorem setWork_mgmt (p : Port) (w : Work) : (setWork p w s).mgmt = s.mgmt := rfl
@[simp] theorem setWork_notices (p : Port) (w : Work) : (setWork p w s).notices = s.notices := rfl
@[simp] theorem setWork_events (p : Port) (w : Work) : (setWork p w s).events = s.events := rfl
@[simp] theorem setWork_pending (p : Port) (w : Work) : (setWork p w s).pending = s.pending := rfl
@[simp] theorem setWork_dispatchers (p : Port) (w : Work) :
    (setWork p w s).dispatchers = s.dispatchers.set p { s.dispatchers.get p with work := some w } := rfl

/-! ### `finishHead` -/

@[simp] theorem finishHead_timebase (p : Port) (ch : Chan) : (finishHead p ch s).timebase = s.timebase := rfl
@[simp] theorem finishHead_steering (p : Port) (ch : Chan) : (finishHead p ch s).steering = s.steering := rfl
@[simp] theorem finishHead_tracker (p : Port) (ch : Chan) : (finishHead p ch s).tracker = s.tracker := rfl
@[simp] theorem finishHead_hold (p : Port) (ch : Chan) : (finishHead p ch s).hold = s.hold := rfl
@[simp] theorem finishHead_commit (p : Port) (ch : Chan) : (finishHead p ch s).commit = s.commit := rfl
@[simp] theorem finishHead_mgmt (p : Port) (ch : Chan) : (finishHead p ch s).mgmt = s.mgmt := rfl
@[simp] theorem finishHead_notices (p : Port) (ch : Chan) : (finishHead p ch s).notices = s.notices := rfl
@[simp] theorem finishHead_events (p : Port) (ch : Chan) : (finishHead p ch s).events = s.events := rfl
@[simp] theorem finishHead_pending (p : Port) (ch : Chan) : (finishHead p ch s).pending = s.pending := rfl

/-! ### `dropHead` -/

@[simp] theorem dropHead_timebase (p : Port) (ch : Chan) (lacking : List Resource) : (dropHead p ch lacking s).timebase = s.timebase := rfl
@[simp] theorem dropHead_ports (p : Port) (ch : Chan) (lacking : List Resource) : (dropHead p ch lacking s).ports = s.ports := rfl
@[simp] theorem dropHead_steering (p : Port) (ch : Chan) (lacking : List Resource) : (dropHead p ch lacking s).steering = s.steering := rfl
@[simp] theorem dropHead_tracker (p : Port) (ch : Chan) (lacking : List Resource) : (dropHead p ch lacking s).tracker = s.tracker := rfl
@[simp] theorem dropHead_hold (p : Port) (ch : Chan) (lacking : List Resource) : (dropHead p ch lacking s).hold = s.hold := rfl
@[simp] theorem dropHead_commit (p : Port) (ch : Chan) (lacking : List Resource) : (dropHead p ch lacking s).commit = s.commit := rfl
@[simp] theorem dropHead_mgmt (p : Port) (ch : Chan) (lacking : List Resource) : (dropHead p ch lacking s).mgmt = s.mgmt := rfl
@[simp] theorem dropHead_notices (p : Port) (ch : Chan) (lacking : List Resource) : (dropHead p ch lacking s).notices = s.notices := rfl
@[simp] theorem dropHead_events (p : Port) (ch : Chan) (lacking : List Resource) : (dropHead p ch lacking s).events = s.events := rfl
@[simp] theorem dropHead_pending (p : Port) (ch : Chan) (lacking : List Resource) : (dropHead p ch lacking s).pending = s.pending := rfl

/-! ### `popNotice` -/

@[simp] theorem popNotice_timebase : (popNotice s).timebase = s.timebase := rfl
@[simp] theorem popNotice_ports : (popNotice s).ports = s.ports := rfl
@[simp] theorem popNotice_dispatchers : (popNotice s).dispatchers = s.dispatchers := rfl
@[simp] theorem popNotice_steering : (popNotice s).steering = s.steering := rfl
@[simp] theorem popNotice_tracker : (popNotice s).tracker = s.tracker := rfl
@[simp] theorem popNotice_hold : (popNotice s).hold = s.hold := rfl
@[simp] theorem popNotice_commit : (popNotice s).commit = s.commit := rfl
@[simp] theorem popNotice_mgmt : (popNotice s).mgmt = s.mgmt := rfl
@[simp] theorem popNotice_events : (popNotice s).events = s.events := rfl
@[simp] theorem popNotice_pending : (popNotice s).pending = s.pending := rfl
@[simp] theorem popNotice_notices :
    (popNotice s).notices = { s.notices with queue := s.notices.queue.tail } := rfl

/-! ### `freeHead` -/

@[simp] theorem freeHead_timebase : (freeHead s).timebase = s.timebase := rfl
@[simp] theorem freeHead_ports : (freeHead s).ports = s.ports := rfl
@[simp] theorem freeHead_steering : (freeHead s).steering = s.steering := rfl
@[simp] theorem freeHead_tracker : (freeHead s).tracker = s.tracker := rfl
@[simp] theorem freeHead_hold : (freeHead s).hold = s.hold := rfl
@[simp] theorem freeHead_commit : (freeHead s).commit = s.commit := rfl
@[simp] theorem freeHead_notices : (freeHead s).notices = s.notices := rfl
@[simp] theorem freeHead_events : (freeHead s).events = s.events := rfl
@[simp] theorem freeHead_pending : (freeHead s).pending = s.pending := rfl

/-! ### Components of the containers -/

theorem Duo.get_set {α : Type} (x : Duo α) (p q : Port) (a : α) :
    (x.set p a).get q = if q = p then a else x.get q := by
  cases p <;> cases q <;> rfl

@[simp] theorem Duo.get_set_same {α : Type} (x : Duo α) (p : Port) (a : α) :
    (x.set p a).get p = a := by
  cases p <;> rfl

@[simp] theorem Duo.get_set_other {α : Type} (x : Duo α) (p : Port) (a : α) :
    (x.set p a).get (otherPort p) = x.get (otherPort p) := by
  cases p <;> rfl

@[simp] theorem Duo.get_map {α β : Type} (f : α → β) (x : Duo α) (p : Port) :
    (x.map f).get p = f (x.get p) := by
  cases p <;> rfl

@[simp] theorem Duo.set_get {α : Type} (x : Duo α) (p : Port) : x.set p (x.get p) = x := by
  cases p <;> rfl

@[simp] theorem Duo.set_set {α : Type} (x : Duo α) (p : Port) (a b : α) :
    (x.set p a).set p b = x.set p b := by
  cases p <;> rfl

theorem Trio.get_set {α : Type} (x : Trio α) (i k : Chan) (a : α) :
    (x.set i a).get k = if k = i then a else x.get k := by
  cases i <;> cases k <;> rfl

@[simp] theorem Trio.get_set_same {α : Type} (x : Trio α) (i : Chan) (a : α) :
    (x.set i a).get i = a := by
  cases i <;> rfl

@[simp] theorem Trio.get_map {α β : Type} (f : α → β) (x : Trio α) (i : Chan) :
    (x.map f).get i = f (x.get i) := by
  cases i <;> rfl

@[simp] theorem Trio.set_get {α : Type} (x : Trio α) (i : Chan) : x.set i (x.get i) = x := by
  cases i <;> rfl

@[simp] theorem otherPort_other (p : Port) : otherPort (otherPort p) = p := by cases p <;> rfl

theorem otherPort_ne (p : Port) : otherPort p ≠ p := by cases p <;> decide

/-! ### Ports and dispatchers -/

@[simp] theorem State.setPort_port (p : Port) (lp : LinkPort) : (s.setPort p lp).port p = lp := by
  simp [State.port]

theorem State.setPort_port_of_ne {p q : Port} (h : q ≠ p) (lp : LinkPort) :
    (s.setPort p lp).port q = s.port q := by
  simp [State.port, Duo.get_set, h]

@[simp] theorem State.setDispatcher_dispatcher (p : Port) (d : Dispatcher) :
    (s.setDispatcher p d).dispatcher p = d := by
  simp [State.dispatcher]

theorem State.setDispatcher_dispatcher_of_ne {p q : Port} (h : q ≠ p) (d : Dispatcher) :
    (s.setDispatcher p d).dispatcher q = s.dispatcher q := by
  simp [State.dispatcher, Duo.get_set, h]

/-! ### Several notices -/

@[simp] theorem raiseList_timebase (rs : List NoticeReq) : (raiseList rs s).timebase = s.timebase := by
  induction rs generalizing s with
  | nil => rfl
  | cons r rs ih => exact ih (raise r s)

@[simp] theorem raiseList_ports (rs : List NoticeReq) : (raiseList rs s).ports = s.ports := by
  induction rs generalizing s with
  | nil => rfl
  | cons r rs ih => exact ih (raise r s)

@[simp] theorem raiseList_dispatchers (rs : List NoticeReq) : (raiseList rs s).dispatchers = s.dispatchers := by
  induction rs generalizing s with
  | nil => rfl
  | cons r rs ih => exact ih (raise r s)

@[simp] theorem raiseList_steering (rs : List NoticeReq) : (raiseList rs s).steering = s.steering := by
  induction rs generalizing s with
  | nil => rfl
  | cons r rs ih => exact ih (raise r s)

@[simp] theorem raiseList_tracker (rs : List NoticeReq) : (raiseList rs s).tracker = s.tracker := by
  induction rs generalizing s with
  | nil => rfl
  | cons r rs ih => exact ih (raise r s)

@[simp] theorem raiseList_hold (rs : List NoticeReq) : (raiseList rs s).hold = s.hold := by
  induction rs generalizing s with
  | nil => rfl
  | cons r rs ih => exact ih (raise r s)

@[simp] theorem raiseList_commit (rs : List NoticeReq) : (raiseList rs s).commit = s.commit := by
  induction rs generalizing s with
  | nil => rfl
  | cons r rs ih => exact ih (raise r s)

@[simp] theorem raiseList_mgmt (rs : List NoticeReq) : (raiseList rs s).mgmt = s.mgmt := by
  induction rs generalizing s with
  | nil => rfl
  | cons r rs ih => exact ih (raise r s)

@[simp] theorem raiseList_events (rs : List NoticeReq) : (raiseList rs s).events = s.events := by
  induction rs generalizing s with
  | nil => rfl
  | cons r rs ih => exact ih (raise r s)

@[simp] theorem raiseList_pending (rs : List NoticeReq) : (raiseList rs s).pending = s.pending := by
  induction rs generalizing s with
  | nil => rfl
  | cons r rs ih => exact ih (raise r s)

@[simp] theorem raiseTogether_timebase (bs : List (List NoticeReq)) :
    (raiseTogether bs s).timebase = s.timebase := by
  simp [raiseTogether]

@[simp] theorem raiseTogether_ports (bs : List (List NoticeReq)) :
    (raiseTogether bs s).ports = s.ports := by
  simp [raiseTogether]

@[simp] theorem raiseTogether_dispatchers (bs : List (List NoticeReq)) :
    (raiseTogether bs s).dispatchers = s.dispatchers := by
  simp [raiseTogether]

@[simp] theorem raiseTogether_steering (bs : List (List NoticeReq)) :
    (raiseTogether bs s).steering = s.steering := by
  simp [raiseTogether]

@[simp] theorem raiseTogether_tracker (bs : List (List NoticeReq)) :
    (raiseTogether bs s).tracker = s.tracker := by
  simp [raiseTogether]

@[simp] theorem raiseTogether_hold (bs : List (List NoticeReq)) :
    (raiseTogether bs s).hold = s.hold := by
  simp [raiseTogether]

@[simp] theorem raiseTogether_commit (bs : List (List NoticeReq)) :
    (raiseTogether bs s).commit = s.commit := by
  simp [raiseTogether]

@[simp] theorem raiseTogether_mgmt (bs : List (List NoticeReq)) :
    (raiseTogether bs s).mgmt = s.mgmt := by
  simp [raiseTogether]

@[simp] theorem raiseTogether_pending (bs : List (List NoticeReq)) :
    (raiseTogether bs s).pending = s.pending := by
  simp [raiseTogether]

@[simp] theorem raiseTogether_events (bs : List (List NoticeReq)) :
    (raiseTogether bs s).events = s.events + 1 := by
  simp [raiseTogether]

end Sys2Proof.Machine
end

