-- ==== Sys2Proof/Laws/Frames.lean ====
section
/-! SUPPORT. What each shared operation leaves unchanged, one lemma for each part of the state. -/

namespace Sys2Proof.Machine

/-! `settleDrain` changes the Commit Status alone. -/

@[simp] theorem settleDrain_timebase (s : State) :
    ((settleDrain s).1).timebase = s.timebase := by
  unfold settleDrain; split <;> rfl

@[simp] theorem settleDrain_ports (s : State) :
    ((settleDrain s).1).ports = s.ports := by
  unfold settleDrain; split <;> rfl

@[simp] theorem settleDrain_dispatchers (s : State) :
    ((settleDrain s).1).dispatchers = s.dispatchers := by
  unfold settleDrain; split <;> rfl

@[simp] theorem settleDrain_steering (s : State) :
    ((settleDrain s).1).steering = s.steering := by
  unfold settleDrain; split <;> rfl

@[simp] theorem settleDrain_tracker (s : State) :
    ((settleDrain s).1).tracker = s.tracker := by
  unfold settleDrain; split <;> rfl

@[simp] theorem settleDrain_hold (s : State) :
    ((settleDrain s).1).hold = s.hold := by
  unfold settleDrain; split <;> rfl

@[simp] theorem settleDrain_mgmt (s : State) :
    ((settleDrain s).1).mgmt = s.mgmt := by
  unfold settleDrain; split <;> rfl

@[simp] theorem settleDrain_notices (s : State) :
    ((settleDrain s).1).notices = s.notices := by
  unfold settleDrain; split <;> rfl

@[simp] theorem settleDrain_events (s : State) :
    ((settleDrain s).1).events = s.events := by
  unfold settleDrain; split <;> rfl

@[simp] theorem settleDrain_pending (s : State) :
    ((settleDrain s).1).pending = s.pending := by
  unfold settleDrain; split <;> rfl


/-! `takeReports` changes the Commit Status alone. -/

@[simp] theorem takeReports_timebase (rs : List Removal) (s : State) :
    ((takeReports rs s).1).timebase = s.timebase := by
  unfold takeReports; split <;> simp

@[simp] theorem takeReports_ports (rs : List Removal) (s : State) :
    ((takeReports rs s).1).ports = s.ports := by
  unfold takeReports; split <;> simp

@[simp] theorem takeReports_dispatchers (rs : List Removal) (s : State) :
    ((takeReports rs s).1).dispatchers = s.dispatchers := by
  unfold takeReports; split <;> simp

@[simp] theorem takeReports_steering (rs : List Removal) (s : State) :
    ((takeReports rs s).1).steering = s.steering := by
  unfold takeReports; split <;> simp

@[simp] theorem takeReports_tracker (rs : List Removal) (s : State) :
    ((takeReports rs s).1).tracker = s.tracker := by
  unfold takeReports; split <;> simp

@[simp] theorem takeReports_hold (rs : List Removal) (s : State) :
    ((takeReports rs s).1).hold = s.hold := by
  unfold takeReports; split <;> simp

@[simp] theorem takeReports_mgmt (rs : List Removal) (s : State) :
    ((takeReports rs s).1).mgmt = s.mgmt := by
  unfold takeReports; split <;> simp

@[simp] theorem takeReports_notices (rs : List Removal) (s : State) :
    ((takeReports rs s).1).notices = s.notices := by
  unfold takeReports; split <;> simp

@[simp] theorem takeReports_events (rs : List Removal) (s : State) :
    ((takeReports rs s).1).events = s.events := by
  unfold takeReports; split <;> simp

@[simp] theorem takeReports_pending (rs : List Removal) (s : State) :
    ((takeReports rs s).1).pending = s.pending := by
  unfold takeReports; split <;> simp


/-! `reportRemovals` changes the Commit Status and the notices. -/

@[simp] theorem reportRemovals_timebase (rs : List Removal) (ns : List NoticeReq) (s : State) :
    (reportRemovals rs ns s).timebase = s.timebase := by
  simp [reportRemovals]

@[simp] theorem reportRemovals_ports (rs : List Removal) (ns : List NoticeReq) (s : State) :
    (reportRemovals rs ns s).ports = s.ports := by
  simp [reportRemovals]

@[simp] theorem reportRemovals_dispatchers (rs : List Removal) (ns : List NoticeReq) (s : State) :
    (reportRemovals rs ns s).dispatchers = s.dispatchers := by
  simp [reportRemovals]

@[simp] theorem reportRemovals_steering (rs : List Removal) (ns : List NoticeReq) (s : State) :
    (reportRemovals rs ns s).steering = s.steering := by
  simp [reportRemovals]

@[simp] theorem reportRemovals_tracker (rs : List Removal) (ns : List NoticeReq) (s : State) :
    (reportRemovals rs ns s).tracker = s.tracker := by
  simp [reportRemovals]

@[simp] theorem reportRemovals_hold (rs : List Removal) (ns : List NoticeReq) (s : State) :
    (reportRemovals rs ns s).hold = s.hold := by
  simp [reportRemovals]

@[simp] theorem reportRemovals_mgmt (rs : List Removal) (ns : List NoticeReq) (s : State) :
    (reportRemovals rs ns s).mgmt = s.mgmt := by
  simp [reportRemovals]

@[simp] theorem reportRemovals_pending (rs : List Removal) (ns : List NoticeReq) (s : State) :
    (reportRemovals rs ns s).pending = s.pending := by
  simp [reportRemovals]


/-! `coolEntry` changes the tracker, the Commit Status and the notices. -/

@[simp] theorem coolEntry_timebase (e : TrackEntry) (c : Cause) (ns : List NoticeReq) (s : State) :
    (coolEntry e c ns s).timebase = s.timebase := by
  simp [coolEntry]

@[simp] theorem coolEntry_ports (e : TrackEntry) (c : Cause) (ns : List NoticeReq) (s : State) :
    (coolEntry e c ns s).ports = s.ports := by
  simp [coolEntry]

@[simp] theorem coolEntry_dispatchers (e : TrackEntry) (c : Cause) (ns : List NoticeReq) (s : State) :
    (coolEntry e c ns s).dispatchers = s.dispatchers := by
  simp [coolEntry]

@[simp] theorem coolEntry_steering (e : TrackEntry) (c : Cause) (ns : List NoticeReq) (s : State) :
    (coolEntry e c ns s).steering = s.steering := by
  simp [coolEntry]

@[simp] theorem coolEntry_hold (e : TrackEntry) (c : Cause) (ns : List NoticeReq) (s : State) :
    (coolEntry e c ns s).hold = s.hold := by
  simp [coolEntry]

@[simp] theorem coolEntry_mgmt (e : TrackEntry) (c : Cause) (ns : List NoticeReq) (s : State) :
    (coolEntry e c ns s).mgmt = s.mgmt := by
  simp [coolEntry]

@[simp] theorem coolEntry_pending (e : TrackEntry) (c : Cause) (ns : List NoticeReq) (s : State) :
    (coolEntry e c ns s).pending = s.pending := by
  simp [coolEntry]


/-! `withdraw` changes the tracker and the Commit Status. -/

@[simp] theorem withdraw_timebase (e : TrackEntry) (s : State) :
    ((withdraw e s).1).timebase = s.timebase := by
  simp [withdraw]

@[simp] theorem withdraw_ports (e : TrackEntry) (s : State) :
    ((withdraw e s).1).ports = s.ports := by
  simp [withdraw]

@[simp] theorem withdraw_dispatchers (e : TrackEntry) (s : State) :
    ((withdraw e s).1).dispatchers = s.dispatchers := by
  simp [withdraw]

@[simp] theorem withdraw_steering (e : TrackEntry) (s : State) :
    ((withdraw e s).1).steering = s.steering := by
  simp [withdraw]

@[simp] theorem withdraw_hold (e : TrackEntry) (s : State) :
    ((withdraw e s).1).hold = s.hold := by
  simp [withdraw]

@[simp] theorem withdraw_mgmt (e : TrackEntry) (s : State) :
    ((withdraw e s).1).mgmt = s.mgmt := by
  simp [withdraw]

@[simp] theorem withdraw_notices (e : TrackEntry) (s : State) :
    ((withdraw e s).1).notices = s.notices := by
  simp [withdraw]

@[simp] theorem withdraw_pending (e : TrackEntry) (s : State) :
    ((withdraw e s).1).pending = s.pending := by
  simp [withdraw]


/-! `handBack` changes the tracker, the Commit Status, the notices and the wait marks. -/

@[simp] theorem handBack_timebase (e : TrackEntry) (s : State) :
    (handBack e s).timebase = s.timebase := by
  simp [handBack]

@[simp] theorem handBack_ports (e : TrackEntry) (s : State) :
    (handBack e s).ports = s.ports := by
  simp [handBack]

@[simp] theorem handBack_steering (e : TrackEntry) (s : State) :
    (handBack e s).steering = s.steering := by
  simp [handBack]

@[simp] theorem handBack_hold (e : TrackEntry) (s : State) :
    (handBack e s).hold = s.hold := by
  simp [handBack]

@[simp] theorem handBack_mgmt (e : TrackEntry) (s : State) :
    (handBack e s).mgmt = s.mgmt := by
  simp [handBack]

@[simp] theorem handBack_pending (e : TrackEntry) (s : State) :
    (handBack e s).pending = s.pending := by
  simp [handBack]


/-! `releaseEntry` changes the tracker and the wait marks. -/

@[simp] theorem releaseEntry_timebase (e : TrackEntry) (s : State) :
    (releaseEntry e s).timebase = s.timebase := by
  unfold releaseEntry; split <;> simp

@[simp] theorem releaseEntry_ports (e : TrackEntry) (s : State) :
    (releaseEntry e s).ports = s.ports := by
  unfold releaseEntry; split <;> simp

@[simp] theorem releaseEntry_steering (e : TrackEntry) (s : State) :
    (releaseEntry e s).steering = s.steering := by
  unfold releaseEntry; split <;> simp

@[simp] theorem releaseEntry_hold (e : TrackEntry) (s : State) :
    (releaseEntry e s).hold = s.hold := by
  unfold releaseEntry; split <;> simp

@[simp] theorem releaseEntry_commit (e : TrackEntry) (s : State) :
    (releaseEntry e s).commit = s.commit := by
  unfold releaseEntry; split <;> simp

@[simp] theorem releaseEntry_mgmt (e : TrackEntry) (s : State) :
    (releaseEntry e s).mgmt = s.mgmt := by
  unfold releaseEntry; split <;> simp

@[simp] theorem releaseEntry_notices (e : TrackEntry) (s : State) :
    (releaseEntry e s).notices = s.notices := by
  unfold releaseEntry; split <;> simp

@[simp] theorem releaseEntry_events (e : TrackEntry) (s : State) :
    (releaseEntry e s).events = s.events := by
  unfold releaseEntry; split <;> simp

@[simp] theorem releaseEntry_pending (e : TrackEntry) (s : State) :
    (releaseEntry e s).pending = s.pending := by
  unfold releaseEntry; split <;> simp


/-! `setHeadState` and `answerHead` change the head of the command queue alone. -/

@[simp] theorem setHeadState_timebase (st : SlotState) (s : State) :
    (setHeadState st s).timebase = s.timebase := by
  unfold setHeadState; split <;> simp

@[simp] theorem setHeadState_ports (st : SlotState) (s : State) :
    (setHeadState st s).ports = s.ports := by
  unfold setHeadState; split <;> simp

@[simp] theorem setHeadState_dispatchers (st : SlotState) (s : State) :
    (setHeadState st s).dispatchers = s.dispatchers := by
  unfold setHeadState; split <;> simp

@[simp] theorem setHeadState_steering (st : SlotState) (s : State) :
    (setHeadState st s).steering = s.steering := by
  unfold setHeadState; split <;> simp

@[simp] theorem setHeadState_tracker (st : SlotState) (s : State) :
    (setHeadState st s).tracker = s.tracker := by
  unfold setHeadState; split <;> simp

@[simp] theorem setHeadState_hold (st : SlotState) (s : State) :
    (setHeadState st s).hold = s.hold := by
  unfold setHeadState; split <;> simp

@[simp] theorem setHeadState_commit (st : SlotState) (s : State) :
    (setHeadState st s).commit = s.commit := by
  unfold setHeadState; split <;> simp

@[simp] theorem setHeadState_notices (st : SlotState) (s : State) :
    (setHeadState st s).notices = s.notices := by
  unfold setHeadState; split <;> simp

@[simp] theorem setHeadState_events (st : SlotState) (s : State) :
    (setHeadState st s).events = s.events := by
  unfold setHeadState; split <;> simp

@[simp] theorem setHeadState_pending (st : SlotState) (s : State) :
    (setHeadState st s).pending = s.pending := by
  unfold setHeadState; split <;> simp


/-! The same of `answerHead`. -/

@[simp] theorem answerHead_timebase (r : Result) (i : Nat) (s : State) :
    (answerHead r i s).timebase = s.timebase := by
  simp [answerHead]

@[simp] theorem answerHead_ports (r : Result) (i : Nat) (s : State) :
    (answerHead r i s).ports = s.ports := by
  simp [answerHead]

@[simp] theorem answerHead_dispatchers (r : Result) (i : Nat) (s : State) :
    (answerHead r i s).dispatchers = s.dispatchers := by
  simp [answerHead]

@[simp] theorem answerHead_steering (r : Result) (i : Nat) (s : State) :
    (answerHead r i s).steering = s.steering := by
  simp [answerHead]

@[simp] theorem answerHead_tracker (r : Result) (i : Nat) (s : State) :
    (answerHead r i s).tracker = s.tracker := by
  simp [answerHead]

@[simp] theorem answerHead_hold (r : Result) (i : Nat) (s : State) :
    (answerHead r i s).hold = s.hold := by
  simp [answerHead]

@[simp] theorem answerHead_commit (r : Result) (i : Nat) (s : State) :
    (answerHead r i s).commit = s.commit := by
  simp [answerHead]

@[simp] theorem answerHead_notices (r : Result) (i : Nat) (s : State) :
    (answerHead r i s).notices = s.notices := by
  simp [answerHead]

@[simp] theorem answerHead_events (r : Result) (i : Nat) (s : State) :
    (answerHead r i s).events = s.events := by
  simp [answerHead]

@[simp] theorem answerHead_pending (r : Result) (i : Nat) (s : State) :
    (answerHead r i s).pending = s.pending := by
  simp [answerHead]


/-! `endRelease` ends the release in progress and may change the state of the head of the command
queue. -/

theorem setHeadState_form (st : SlotState) (s : State) :
    setHeadState st s = setMgmt { s.mgmt with
      queue := match s.mgmt.queue with
        | [] => []
        | slot :: rest => { slot with state := st } :: rest } s := by
  unfold setHeadState
  cases s with
  | mk _ _ _ _ _ _ _ m _ _ _ => cases m with
    | mk _ _ _ _ q _ => cases q <;> rfl

theorem endRelease_form (r : Result) (s : State) :
    ∃ q, endRelease r s =
      setMgmt { s.mgmt with queue := q } (setHold { s.hold with release := none } s) ∧
      q.tail = s.mgmt.queue.tail ∧ q.length = s.mgmt.queue.length := by
  have head : ∀ st, ∃ q, setHeadState st (setHold { s.hold with release := none } s) =
      setMgmt { s.mgmt with queue := q } (setHold { s.hold with release := none } s) ∧
      q.tail = s.mgmt.queue.tail ∧ q.length = s.mgmt.queue.length := by
    intro st
    rw [setHeadState_form]
    refine ⟨_, rfl, ?_, ?_⟩ <;> cases h : s.mgmt.queue <;> simp [h]
  have same : ∃ q, setHold { s.hold with release := none } s =
      setMgmt { s.mgmt with queue := q } (setHold { s.hold with release := none } s) ∧
      q.tail = s.mgmt.queue.tail ∧ q.length = s.mgmt.queue.length :=
    ⟨s.mgmt.queue, rfl, rfl, rfl⟩
  unfold endRelease
  by_cases hd : (s.hold.release.any fun r => r.delivers) = true
  · simp only [hd, if_true, setHold_mgmt]
    cases hq : s.mgmt.queue with
    | nil => rw [hq] at same; exact same
    | cons slot rest =>
      rw [hq] at head same
      simp only []
      cases slot.state with
      | executing => exact head _
      | executingBatch run =>
        simp only []
        split
        · split
          · exact head _
          · exact head _
        · exact head _
      | waiting => exact same
      | popping => exact same
      | answerReady reply => exact same
      | aborting => exact same
  · simp only [hd]; exact same


/-! The fields `endRelease` leaves alone. -/

@[simp] theorem endRelease_timebase (r : Result) (s : State) :
    (endRelease r s).timebase = s.timebase := by
  obtain ⟨q, h, -⟩ := endRelease_form r s
  rw [h]; rfl

@[simp] theorem endRelease_ports (r : Result) (s : State) :
    (endRelease r s).ports = s.ports := by
  obtain ⟨q, h, -⟩ := endRelease_form r s
  rw [h]; rfl

@[simp] theorem endRelease_dispatchers (r : Result) (s : State) :
    (endRelease r s).dispatchers = s.dispatchers := by
  obtain ⟨q, h, -⟩ := endRelease_form r s
  rw [h]; rfl

@[simp] theorem endRelease_steering (r : Result) (s : State) :
    (endRelease r s).steering = s.steering := by
  obtain ⟨q, h, -⟩ := endRelease_form r s
  rw [h]; rfl

@[simp] theorem endRelease_tracker (r : Result) (s : State) :
    (endRelease r s).tracker = s.tracker := by
  obtain ⟨q, h, -⟩ := endRelease_form r s
  rw [h]; rfl

@[simp] theorem endRelease_commit (r : Result) (s : State) :
    (endRelease r s).commit = s.commit := by
  obtain ⟨q, h, -⟩ := endRelease_form r s
  rw [h]; rfl

@[simp] theorem endRelease_notices (r : Result) (s : State) :
    (endRelease r s).notices = s.notices := by
  obtain ⟨q, h, -⟩ := endRelease_form r s
  rw [h]; rfl

@[simp] theorem endRelease_events (r : Result) (s : State) :
    (endRelease r s).events = s.events := by
  obtain ⟨q, h, -⟩ := endRelease_form r s
  rw [h]; rfl

@[simp] theorem endRelease_pending (r : Result) (s : State) :
    (endRelease r s).pending = s.pending := by
  obtain ⟨q, h, -⟩ := endRelease_form r s
  rw [h]; rfl


/-! `freeSlot` changes the slots of the Hold Queue and the wait marks. -/

@[simp] theorem freeSlot_timebase (id : HoldId) (s : State) :
    (freeSlot id s).timebase = s.timebase := by
  simp [freeSlot]

@[simp] theorem freeSlot_ports (id : HoldId) (s : State) :
    (freeSlot id s).ports = s.ports := by
  simp [freeSlot]

@[simp] theorem freeSlot_steering (id : HoldId) (s : State) :
    (freeSlot id s).steering = s.steering := by
  simp [freeSlot]

@[simp] theorem freeSlot_tracker (id : HoldId) (s : State) :
    (freeSlot id s).tracker = s.tracker := by
  simp [freeSlot]

@[simp] theorem freeSlot_commit (id : HoldId) (s : State) :
    (freeSlot id s).commit = s.commit := by
  simp [freeSlot]

@[simp] theorem freeSlot_mgmt (id : HoldId) (s : State) :
    (freeSlot id s).mgmt = s.mgmt := by
  simp [freeSlot]

@[simp] theorem freeSlot_notices (id : HoldId) (s : State) :
    (freeSlot id s).notices = s.notices := by
  simp [freeSlot]

@[simp] theorem freeSlot_events (id : HoldId) (s : State) :
    (freeSlot id s).events = s.events := by
  simp [freeSlot]

@[simp] theorem freeSlot_pending (id : HoldId) (s : State) :
    (freeSlot id s).pending = s.pending := by
  simp [freeSlot]


/-! `refuseHeld` changes the slots of the Hold Queue, the wait marks and the event number. -/

@[simp] theorem refuseHeld_timebase (h : HoldSlot) (st : AnswerStatus) (s : State) :
    (refuseHeld h st s).timebase = s.timebase := by
  unfold refuseHeld; split <;> simp

@[simp] theorem refuseHeld_ports (h : HoldSlot) (st : AnswerStatus) (s : State) :
    (refuseHeld h st s).ports = s.ports := by
  unfold refuseHeld; split <;> simp

@[simp] theorem refuseHeld_steering (h : HoldSlot) (st : AnswerStatus) (s : State) :
    (refuseHeld h st s).steering = s.steering := by
  unfold refuseHeld; split <;> simp

@[simp] theorem refuseHeld_tracker (h : HoldSlot) (st : AnswerStatus) (s : State) :
    (refuseHeld h st s).tracker = s.tracker := by
  unfold refuseHeld; split <;> simp

@[simp] theorem refuseHeld_commit (h : HoldSlot) (st : AnswerStatus) (s : State) :
    (refuseHeld h st s).commit = s.commit := by
  unfold refuseHeld; split <;> simp

@[simp] theorem refuseHeld_mgmt (h : HoldSlot) (st : AnswerStatus) (s : State) :
    (refuseHeld h st s).mgmt = s.mgmt := by
  unfold refuseHeld; split <;> simp

@[simp] theorem refuseHeld_notices (h : HoldSlot) (st : AnswerStatus) (s : State) :
    (refuseHeld h st s).notices = s.notices := by
  unfold refuseHeld; split <;> simp

@[simp] theorem refuseHeld_pending (h : HoldSlot) (st : AnswerStatus) (s : State) :
    (refuseHeld h st s).pending = s.pending := by
  unfold refuseHeld; split <;> simp


/-! `managementPortDown` changes the command queue, the pending move and the release in progress. -/

@[simp] theorem managementPortDown_timebase (p : Port) (s : State) :
    (managementPortDown p s).timebase = s.timebase := by
  unfold managementPortDown; split <;> simp

@[simp] theorem managementPortDown_ports (p : Port) (s : State) :
    (managementPortDown p s).ports = s.ports := by
  unfold managementPortDown; split <;> simp

@[simp] theorem managementPortDown_dispatchers (p : Port) (s : State) :
    (managementPortDown p s).dispatchers = s.dispatchers := by
  unfold managementPortDown; split <;> simp

@[simp] theorem managementPortDown_steering (p : Port) (s : State) :
    (managementPortDown p s).steering = s.steering := by
  unfold managementPortDown; split <;> simp

@[simp] theorem managementPortDown_tracker (p : Port) (s : State) :
    (managementPortDown p s).tracker = s.tracker := by
  unfold managementPortDown; split <;> simp

@[simp] theorem managementPortDown_commit (p : Port) (s : State) :
    (managementPortDown p s).commit = s.commit := by
  unfold managementPortDown; split <;> simp

@[simp] theorem managementPortDown_notices (p : Port) (s : State) :
    (managementPortDown p s).notices = s.notices := by
  unfold managementPortDown; split <;> simp

@[simp] theorem managementPortDown_events (p : Port) (s : State) :
    (managementPortDown p s).events = s.events := by
  unfold managementPortDown; split <;> simp

@[simp] theorem managementPortDown_pending (p : Port) (s : State) :
    (managementPortDown p s).pending = s.pending := by
  unfold managementPortDown; split <;> simp


/-! `releasePortDown` leaves the ports, the Steering Engine, the timebase and the queue of commands alone. -/

@[simp] theorem releasePortDown_timebase (p : Port) (s : State) :
    ((releasePortDown p s).1).timebase = s.timebase := by
  unfold releasePortDown; repeat' (split)
  all_goals simp

@[simp] theorem releasePortDown_ports (p : Port) (s : State) :
    ((releasePortDown p s).1).ports = s.ports := by
  unfold releasePortDown; repeat' (split)
  all_goals simp

@[simp] theorem releasePortDown_steering (p : Port) (s : State) :
    ((releasePortDown p s).1).steering = s.steering := by
  unfold releasePortDown; repeat' (split)
  all_goals simp

@[simp] theorem releasePortDown_pending (p : Port) (s : State) :
    ((releasePortDown p s).1).pending = s.pending := by
  unfold releasePortDown; repeat' (split)
  all_goals simp


/-! `trackerPortDown` changes the tracker, the Commit Status and the event number. -/

@[simp] theorem trackerPortDown_timebase (p : Port) (s : State) :
    ((trackerPortDown p s).1).timebase = s.timebase := by
  simp [trackerPortDown]

@[simp] theorem trackerPortDown_ports (p : Port) (s : State) :
    ((trackerPortDown p s).1).ports = s.ports := by
  simp [trackerPortDown]

@[simp] theorem trackerPortDown_dispatchers (p : Port) (s : State) :
    ((trackerPortDown p s).1).dispatchers = s.dispatchers := by
  simp [trackerPortDown]

@[simp] theorem trackerPortDown_steering (p : Port) (s : State) :
    ((trackerPortDown p s).1).steering = s.steering := by
  simp [trackerPortDown]

@[simp] theorem trackerPortDown_hold (p : Port) (s : State) :
    ((trackerPortDown p s).1).hold = s.hold := by
  simp [trackerPortDown]

@[simp] theorem trackerPortDown_mgmt (p : Port) (s : State) :
    ((trackerPortDown p s).1).mgmt = s.mgmt := by
  simp [trackerPortDown]

@[simp] theorem trackerPortDown_notices (p : Port) (s : State) :
    ((trackerPortDown p s).1).notices = s.notices := by
  simp [trackerPortDown]

@[simp] theorem trackerPortDown_pending (p : Port) (s : State) :
    ((trackerPortDown p s).1).pending = s.pending := by
  simp [trackerPortDown]


/-! `holdPortDown` changes the slots of the Hold Queue and the wait marks. -/

@[simp] theorem holdPortDown_timebase (p : Port) (s : State) :
    ((holdPortDown p s).1).timebase = s.timebase := by
  unfold holdPortDown; dsimp only; split <;> rfl

@[simp] theorem holdPortDown_ports (p : Port) (s : State) :
    ((holdPortDown p s).1).ports = s.ports := by
  unfold holdPortDown; dsimp only; split <;> rfl

@[simp] theorem holdPortDown_steering (p : Port) (s : State) :
    ((holdPortDown p s).1).steering = s.steering := by
  unfold holdPortDown; dsimp only; split <;> rfl

@[simp] theorem holdPortDown_tracker (p : Port) (s : State) :
    ((holdPortDown p s).1).tracker = s.tracker := by
  unfold holdPortDown; dsimp only; split <;> rfl

@[simp] theorem holdPortDown_commit (p : Port) (s : State) :
    ((holdPortDown p s).1).commit = s.commit := by
  unfold holdPortDown; dsimp only; split <;> rfl

@[simp] theorem holdPortDown_mgmt (p : Port) (s : State) :
    ((holdPortDown p s).1).mgmt = s.mgmt := by
  unfold holdPortDown; dsimp only; split <;> rfl

@[simp] theorem holdPortDown_notices (p : Port) (s : State) :
    ((holdPortDown p s).1).notices = s.notices := by
  unfold holdPortDown; dsimp only; split <;> rfl

@[simp] theorem holdPortDown_events (p : Port) (s : State) :
    ((holdPortDown p s).1).events = s.events := by
  unfold holdPortDown; dsimp only; split <;> rfl

@[simp] theorem holdPortDown_pending (p : Port) (s : State) :
    ((holdPortDown p s).1).pending = s.pending := by
  unfold holdPortDown; dsimp only; split <;> rfl


/-! `forceDrain` changes the tracker, the Commit Status and the notices. -/

@[simp] theorem forceDrain_timebase (s : State) :
    (forceDrain s).timebase = s.timebase := by
  simp [forceDrain]

@[simp] theorem forceDrain_ports (s : State) :
    (forceDrain s).ports = s.ports := by
  simp [forceDrain]

@[simp] theorem forceDrain_dispatchers (s : State) :
    (forceDrain s).dispatchers = s.dispatchers := by
  simp [forceDrain]

@[simp] theorem forceDrain_steering (s : State) :
    (forceDrain s).steering = s.steering := by
  simp [forceDrain]

@[simp] theorem forceDrain_hold (s : State) :
    (forceDrain s).hold = s.hold := by
  simp [forceDrain]

@[simp] theorem forceDrain_mgmt (s : State) :
    (forceDrain s).mgmt = s.mgmt := by
  simp [forceDrain]

@[simp] theorem forceDrain_pending (s : State) :
    (forceDrain s).pending = s.pending := by
  simp [forceDrain]


/-! `takeSwap` leaves the Hold Queue and the Management Unit alone. -/

@[simp] theorem takeSwap_timebase (s : State) :
    (takeSwap s).timebase = s.timebase := by
  simp [takeSwap]

@[simp] theorem takeSwap_hold (s : State) :
    (takeSwap s).hold = s.hold := by
  simp [takeSwap]

@[simp] theorem takeSwap_mgmt (s : State) :
    (takeSwap s).mgmt = s.mgmt := by
  simp [takeSwap]

@[simp] theorem takeSwap_events (s : State) :
    (takeSwap s).events = s.events := by
  simp [takeSwap]

@[simp] theorem takeSwap_pending (s : State) :
    (takeSwap s).pending = s.pending := by
  simp [takeSwap]


/-! A staging edit changes the Steering Engine alone. -/

@[simp] theorem applyEdit_timebase (e : EditResult) (s : State) :
    ((applyEdit e s).2).timebase = s.timebase := by
  unfold applyEdit; split <;> rfl

@[simp] theorem applyEdit_ports (e : EditResult) (s : State) :
    ((applyEdit e s).2).ports = s.ports := by
  unfold applyEdit; split <;> rfl

@[simp] theorem applyEdit_dispatchers (e : EditResult) (s : State) :
    ((applyEdit e s).2).dispatchers = s.dispatchers := by
  unfold applyEdit; split <;> rfl

@[simp] theorem applyEdit_tracker (e : EditResult) (s : State) :
    ((applyEdit e s).2).tracker = s.tracker := by
  unfold applyEdit; split <;> rfl

@[simp] theorem applyEdit_hold (e : EditResult) (s : State) :
    ((applyEdit e s).2).hold = s.hold := by
  unfold applyEdit; split <;> rfl

@[simp] theorem applyEdit_commit (e : EditResult) (s : State) :
    ((applyEdit e s).2).commit = s.commit := by
  unfold applyEdit; split <;> rfl

@[simp] theorem applyEdit_mgmt (e : EditResult) (s : State) :
    ((applyEdit e s).2).mgmt = s.mgmt := by
  unfold applyEdit; split <;> rfl

@[simp] theorem applyEdit_notices (e : EditResult) (s : State) :
    ((applyEdit e s).2).notices = s.notices := by
  unfold applyEdit; split <;> rfl

@[simp] theorem applyEdit_events (e : EditResult) (s : State) :
    ((applyEdit e s).2).events = s.events := by
  unfold applyEdit; split <;> rfl

@[simp] theorem applyEdit_pending (e : EditResult) (s : State) :
    ((applyEdit e s).2).pending = s.pending := by
  unfold applyEdit; split <;> rfl

end Sys2Proof.Machine
end

