-- ==== Sys2Proof/Laws/Words.lean ====
section
/-! SUPPORT. The words that Safety writes out from the tables of spec/, each held against the model's own
definition of the same thing. -/

namespace Sys2Proof

open Machine

/-! ### Time -/

theorem reached_iff (now deadline : Time) : reached now deadline = true ↔ Reached now deadline :=
  decide_eq_true_iff

theorem reached_eq (now deadline : Time) : reached now deadline = decide (Reached now deadline) := rfl

theorem atLimit_iff (now deadline : Time) : atLimit now deadline = true ↔ AtLimit now deadline := by
  unfold atLimit; rw [Bool.and_eq_true, reached_iff, decide_eq_true_iff]; rfl

/-! ### Channels and ports -/

theorem channelOf_eq : channelOf = PacketKind.chan := by
  funext kind; cases kind <;> rfl

theorem slotsOf_eq : slotsOf = Chan.capacity := by
  funext ch; cases ch <;> rfl

theorem portIsDown_eq (p : Port) (s : State) : portIsDown p s = (s.port p).state.down := by
  unfold portIsDown State.port; cases (s.ports.get p).state <;> rfl

theorem notSent_iff (lp : LinkPort) (seq : SeqNo) : lp.notSent seq = true ↔ NotSent lp seq :=
  decide_eq_true_iff

theorem packetsAfter_eq (lp : LinkPort) (seq : SeqNo) : packetsAfter lp seq = lp.heldAfter seq := rfl

/-! ### The tracker and the Hold Queue -/

theorem fenceTagOf_eq : fenceTagOf = fenceTag := by
  funext p; cases p <;> rfl

theorem entryUnder_eq (tag : Tag) (s : State) : entryUnder tag s = s.tracker.find tag := rfl

theorem isHeld_eq (h : HoldSlot) : isHeld h = h.state.isHeld := rfl

theorem heldUnder_eq (id : HoldId) (s : State) : heldUnder id s = s.hold.findHeld id := rfl

theorem fenceStateOf_eq : fenceStateOf = Cause.fenceState := by
  funext c; cases c <;> rfl

theorem causeOf_eq : causeOf = CloseStatus.cause := by
  funext c; cases c <;> rfl

theorem closingStatusReply_eq : closingStatusReply = CloseStatus.reply := by
  funext c; cases c <;> rfl

theorem holdReply_eq : holdReply = AnswerStatus.reply := by
  funext c; cases c <;> rfl

theorem markAfter_eq : markAfter = clearMark := rfl

theorem resourceFreed_eq : resourceFreed = clearMarks := rfl

theorem managers_eq (units : UnitSet) (n : UnitNo) :
    UnitSet.holds units n = units.getLsbD n.toNat := rfl

/-! ### Codes -/

theorem statusByte_eq : statusByte = ReplyStatus.code := by
  funext c; cases c <;> rfl

theorem kindByte_eq : kindByte = PacketKind.code := by
  funext c; cases c <;> rfl

theorem modeByte_eq : modeByte = Mode.code := by
  funext c; cases c <;> rfl

theorem laneCount_eq : laneCount = Lanes.count := by
  funext c; cases c <;> rfl

theorem gigabits_eq : gigabits = Rate.gbit := by
  funext c; cases c <;> rfl

theorem stateDetail_eq (st : LinkState) : stateDetail st = st.code.setWidth 16 := by
  cases st <;> rfl

theorem outcomeDetail_eq (o : DrainOutcome) : outcomeDetail o = o.code.setWidth 16 := by
  cases o <;> rfl

theorem noticeNumber_eq : noticeNumber = NoticeKind.code := by
  funext c; cases c <;> rfl

theorem resultNumber_eq : resultNumber = ResultCode.code := by
  funext c; cases c <;> rfl

theorem hasAddress_eq : hasAddress = PacketKind.addressed := by
  funext c; cases c <;> rfl

theorem hasPayload_eq : hasPayload = PacketKind.carriesPayload := by
  funext c; cases c <;> rfl

/-! ### Areas -/

theorem areaFirst_eq : areaFirst = Area.start := by
  funext a; cases a <;> rfl

theorem areaLast_eq : areaLast = Area.last := by
  funext a; cases a <;> rfl

/-- A range that lies in an area is served by it, unless the range is empty. -/
theorem areaOf_range {area : Area} {o n : Nat} (nonempty : 0 < n) (first : areaFirst area ≤ o)
    (last : o + n - 1 ≤ areaLast area) : areaOf o n = some area := by
  have only : ∀ b : Area, liesIn o n b.start b.last = decide (b = area) := by
    intro b
    rw [Bool.eq_iff_iff, liesIn, Bool.and_eq_true, decide_eq_true_iff, decide_eq_true_iff,
      decide_eq_true_iff]
    cases b <;> cases area <;>
      simp only [areaFirst, areaLast, Area.start, Area.last, reduceCtorEq, iff_true, iff_false] at first last ⊢ <;>
      omega
  unfold areaOf
  simp only [only]
  cases area <;> rfl

end Sys2Proof
end

