-- ==== Sys2Proof/Laws/Ops.lean ====
section
/-! SUPPORT. What the operations that blocks share can do, one lemma for each, in the words of Safety: offers
to the transmit queues, notices, the end of a dispatch, the tags of the tracker. -/

namespace Sys2Proof

open Machine

/-! ### Offers -/

theorem takesOffer_iff (p : Port) (ch : Chan) (s : State) :
    TakesOffer p ch s ↔ offerAnswer p ch s = .accepted := by
  unfold TakesOffer offerAnswer LinkPort.answer State.port
  rw [slotsOf_eq]
  cases (s.ports.get p).state <;> simp [LinkState.down]

theorem refusesAsDown_iff (p : Port) (s : State) :
    RefusesAsDown p s ↔ (s.port p).state.down = true := by
  unfold RefusesAsDown State.port
  cases (s.ports.get p).state <;> simp [LinkState.down]

theorem offerAnswer_of_down {p : Port} {ch : Chan} {s : State} (h : RefusesAsDown p s) :
    offerAnswer p ch s = .down := by
  rw [refusesAsDown_iff] at h
  unfold offerAnswer LinkPort.answer; rw [if_pos h]

theorem offerAnswer_of_full {p : Port} {ch : Chan} {s : State} (h : RefusesAsFull p ch s) :
    offerAnswer p ch s = .full := by
  obtain ⟨up, full⟩ := h
  rw [refusesAsDown_iff] at up
  rw [slotsOf_eq] at full
  unfold offerAnswer LinkPort.answer
  rw [if_neg up]
  exact if_neg (Nat.not_lt.2 full)

theorem enqueue_eq (p : Port) (ch : Chan) (pkt : Packet) (s : State) :
    enqueue p ch pkt s = queued p ch pkt s := rfl

/-! ### Notices -/

/-- The requests of several blocks are all raised, each once. -/
theorem takeTurns_perm {α : Type} (event left : Nat) (blocks : List (List α))
    (h : blocks.flatten.length ≤ left) : (takeTurns event left blocks).Perm blocks.flatten := by
  have dropEmpty : ∀ bs : List (List α),
      (bs.filter fun b => !b.isEmpty).flatten = bs.flatten := by
    intro bs
    induction bs with
    | nil => rfl
    | cons b bs ih => cases b <;> simp_all
  have takeOne : ∀ (l : List (List α)) (i : Nat) (hi : i < l.length) (x : α) (rest : List α),
      l[i] = x :: rest → (x :: (l.set i rest).flatten).Perm l.flatten := by
    intro l
    induction l with
    | nil => intro i hi; simp at hi
    | cons b bs ih =>
      intro i hi x rest hx
      cases i with
      | zero => simp at hx; subst hx; simp
      | succ i =>
        simp only [List.set_cons_succ, List.flatten_cons]
        exact List.perm_middle.symm.trans
          (List.Perm.append_left b (ih i (by simpa using hi) x rest (by simpa using hx)))
  induction left generalizing blocks with
  | zero =>
    rw [List.eq_nil_of_length_eq_zero (Nat.le_zero.1 h)]; exact List.Perm.refl _
  | succ n ih =>
    rw [← dropEmpty blocks] at h ⊢
    unfold takeTurns
    generalize List.filter (fun b => !b.isEmpty) blocks = live at *
    match live with
    | [] => exact List.Perm.refl _
    | [b] => simp
    | a :: b :: rest =>
      dsimp only
      generalize hlive : a :: b :: rest = live' at *
      have hlt : Config.noticeTurn event n % live'.length < live'.length :=
        Nat.mod_lt _ (by rw [← hlive]; simp)
      generalize Config.noticeTurn event n % live'.length = i at hlt ⊢
      rw [show live'.getD i [] = live'[i] by simp [List.getD, hlt]]
      cases hx : live'[i] with
      | nil => exact List.Perm.refl _
      | cons x xs =>
        have hp := takeOne live' i hlt x xs hx
        refine (List.Perm.cons x (ih _ ?_)).trans hp
        have := hp.length_eq
        rw [List.length_cons] at this; omega

/-- The requests of each block keep their own order. -/
theorem takeTurns_sublist {α : Type} (event left : Nat) (blocks : List (List α))
    (h : blocks.flatten.length ≤ left) : ∀ b ∈ blocks, b.Sublist (takeTurns event left blocks) := by
  induction left generalizing blocks with
  | zero =>
    intro b mem
    have empty : blocks.flatten = [] := List.eq_nil_of_length_eq_zero (Nat.le_zero.1 h)
    rw [List.flatten_eq_nil_iff.1 empty b mem]
    exact List.nil_sublist _
  | succ n ih =>
    intro b mem
    by_cases none : b = []
    · rw [none]; exact List.nil_sublist _
    have live : b ∈ blocks.filter fun b => !b.isEmpty := by
      simp only [List.mem_filter, mem, true_and]; cases b <;> simp_all
    have fits : (blocks.filter fun b => !b.isEmpty).flatten.length ≤ n + 1 := by
      have sub := List.filter_sublist (p := fun b : List α => !b.isEmpty) (l := blocks)
      exact Nat.le_trans sub.flatten.length_le h
    have held : ∀ x ∈ blocks.filter fun b => !b.isEmpty, x ≠ [] := by
      intro x hx
      have := (List.mem_filter.1 hx).2
      intro he; rw [he] at this; simp at this
    unfold takeTurns
    generalize blocks.filter (fun b => !b.isEmpty) = rest at *
    match rest with
    | [a] => simp only [List.mem_singleton] at live; rw [live]
    | a :: c :: more =>
      dsimp only
      generalize hl : a :: c :: more = l at *
      have hlt : Config.noticeTurn event n % l.length < l.length :=
        Nat.mod_lt _ (by rw [← hl]; simp)
      generalize Config.noticeTurn event n % l.length = i at hlt ⊢
      rw [show l.getD i [] = l[i] by simp [List.getD, hlt]]
      obtain ⟨k, hk, rfl⟩ := List.mem_iff_getElem.1 live
      cases hx : l[i] with
      | nil => exact absurd hx (held _ (List.getElem_mem hlt))
      | cons x xs =>
        have room : (l.set i xs).flatten.length ≤ n := by
          have split : ∀ (l : List (List α)) (i : Nat) (hi : i < l.length), l[i] = x :: xs →
              (l.set i xs).flatten.length + 1 = l.flatten.length := by
            intro l
            induction l with
            | nil => intro i hi; simp at hi
            | cons b bs ih =>
              intro i hi hx
              cases i with
              | zero => simp at hx; subst hx; simp +arith
              | succ i =>
                have := ih i (by simpa using hi) (by simpa using hx)
                simp only [List.set_cons_succ, List.flatten_cons, List.length_append]; omega
          have := split l i hlt hx; omega
        by_cases same : k = i
        · subst same
          rw [hx]
          exact (ih _ room xs (List.mem_iff_getElem.2 ⟨k, by simpa using hk, by simp⟩)).cons_cons x
        · refine (ih _ room _ (List.mem_iff_getElem.2 ⟨k, by simpa using hk, ?_⟩)).cons x
          simp [List.getElem_set_ne (Ne.symm same)]

theorem raiseList_eq (rs : List NoticeReq) (s : State) :
    raiseList rs s =
      { s with notices := rs.foldl (fun n r => n.take s.timebase r) s.notices } := by
  induction rs generalizing s with
  | nil => rfl
  | cons r rs ih => simp only [raiseList, List.foldl_cons] at *; rw [ih]; rfl

/-- Notices raised together at one event are raised in some order, each block's own in its order. -/
theorem raiseTogether_eq (blocks : List (List NoticeReq)) (s : State) :
    ∃ order : List NoticeReq, order.Perm blocks.flatten ∧ (∀ b ∈ blocks, b.Sublist order) ∧
      raiseTogether blocks s = { s with
        events := s.events + 1
        notices := order.foldl (fun n r => n.take s.timebase r) s.notices } := by
  have fits : blocks.flatten.length ≤ (blocks.map List.length).sum := by simp [List.length_flatten]
  exact ⟨_, takeTurns_perm s.events _ blocks fits, takeTurns_sublist s.events _ blocks fits,
    raiseList_eq _ _⟩

theorem raise_eq (r : NoticeReq) (s : State) : raise r s = noticed r s := rfl

/-! ### The end of a dispatch -/

theorem finishHead_eq (p : Port) (ch : Chan) (s : State) : finishHead p ch s = headLeft p ch s := rfl

theorem dropHead_eq (p : Port) (ch : Chan) (lacking : List Resource) (s : State) :
    dropHead p ch lacking s = headDropped p ch lacking s := rfl

theorem setWork_eq (p : Port) (w : Work) (s : State) : setWork p w s = dispatchGoesOn p w s := rfl

theorem clearAllMarks_eq (s : State) : clearAllMarks s = unmarked s := rfl

theorem reportCompletion_dispatcher (p : Port) (dec : Decision) (s : State) :
    reportCompletion (.dispatcher p) dec s = reportedBy p dec s := rfl

theorem reportCompletion_hold (dec : Decision) (s : State) :
    reportCompletion .hold dec s = reportedByHold dec s := rfl

/-! ### Tags and replies -/

theorem isTrafficTag_eq (t : Tag) : isTrafficTag t = decide (t.toNat ≤ 125) := by
  unfold isTrafficTag Config.trafficTags
  congr 1
  exact propext ⟨fun h => by omega, fun h => by omega⟩

theorem releaseEntry_eq (e : TrackEntry) (s : State) : releaseEntry e s = tagFreed e.tag s := by
  unfold releaseEntry tagFreed Tracker.release
  rw [isTrafficTag_eq]
  by_cases h : e.tag.toNat ≤ 125
  · simp only [h, decide_true, if_true]; rfl
  · simp only [h, decide_false]; rfl

theorem replyFits_iff (e : TrackEntry) (reply : Packet) :
    replyFits e reply = true ↔ FitsEntry e reply := by
  unfold replyFits FitsEntry knownStatus
  rw [show ReplyStatus.ok.code = 0 from rfl]
  by_cases h : reply.status = 0
  · simp [h]
  · have one : 1 ≤ reply.status.toNat := by
      rcases Nat.eq_zero_or_pos reply.status.toNat with h1 | h1
      · exact absurd (BitVec.eq_of_toNat_eq (by simpa using h1)) h
      · exact h1
    have h0 : reply.status ≠ 0#8 := h
    rw [if_neg h]; simp [h0, one]

/-- The oldest member of a list: there is one unless the list is empty, and no member comes before it. -/
theorem oldest_spec {α : Type} (older : α → α → Bool) (key : α → Nat) (l : List α)
    (younger : ∀ a ∈ l, ∀ b ∈ l, older a b = false → key b ≤ key a)
    (elder : ∀ a ∈ l, ∀ b ∈ l, older a b = true → key a ≤ key b) :
    (oldest older l = none ↔ l = []) ∧
      ∀ x, oldest older l = some x → x ∈ l ∧ ∀ y ∈ l, key x ≤ key y := by
  cases l with
  | nil => simp [oldest]
  | cons a rest =>
    refine ⟨by simp [oldest], fun x hx => ?_⟩
    simp only [oldest, Option.some.injEq] at hx
    suffices H : ∀ (tail : List α) (best : α), best ∈ a :: rest → (∀ y ∈ tail, y ∈ a :: rest) →
        let r := tail.foldl (fun best b => if older b best then b else best) best
        r ∈ a :: rest ∧ key r ≤ key best ∧ ∀ y ∈ tail, key r ≤ key y by
      have := H rest a (by simp) (fun y hy => by simp [hy])
      rw [hx] at this
      refine ⟨this.1, fun y hy => ?_⟩
      rcases List.mem_cons.1 hy with rfl | hy
      · exact this.2.1
      · exact this.2.2 y hy
    intro tail
    induction tail with
    | nil => intro best hb _; exact ⟨hb, Nat.le_refl _, by simp⟩
    | cons b bs ih =>
      intro best hb sub
      simp only [List.foldl_cons]
      have hbm := sub b (by simp)
      by_cases ho : older b best = true
      · rw [if_pos ho]
        obtain ⟨i1, i2, i3⟩ := ih b hbm (fun y hy => sub y (by simp [hy]))
        refine ⟨i1, Nat.le_trans i2 (elder _ hbm _ hb ho), fun y hy => ?_⟩
        rcases List.mem_cons.1 hy with rfl | hy
        · exact i2
        · exact i3 y hy
      · rw [if_neg ho]
        obtain ⟨i1, i2, i3⟩ := ih best hb (fun y hy => sub y (by simp [hy]))
        refine ⟨i1, i2, fun y hy => ?_⟩
        rcases List.mem_cons.1 hy with rfl | hy
        · exact Nat.le_trans i2 (younger _ hbm _ hb (by simpa using ho))
        · exact i3 y hy

end Sys2Proof
end

