-- ==== Sys2Proof/Laws/Commands.lean ====
section
/-! SUPPORT. Commands and accesses: the command a command write carries, its answer, the placing of a reply,
and that no command looks at the command queue. -/

namespace Sys2Proof

open Machine

theorem headCommand_of_takes {code : CommandCode} {body : List Byte} {slot : CommandSlot}
    {rest : List CommandSlot} {s : State} (h : Takes code body slot rest s) :
    headCommand s = some (some (code, body)) := by
  obtain ⟨noRelease, queue, waiting, manager, kind, within, block⟩ := h
  simp [headCommand, headAccess, waitingHead, noRelease, queue, waiting, classify, managers_eq,
    manager, kind, liesIn, within, block]

theorem setHeadState_eq {slot : CommandSlot} {rest : List CommandSlot} {s : State} (st : SlotState)
    (h : s.mgmt.queue = slot :: rest) :
    setHeadState st s =
      { s with mgmt := { s.mgmt with queue := { slot with state := st } :: rest } } := by
  unfold setHeadState; rw [h]; rfl

theorem answerHead_eq {slot : CommandSlot} {rest : List CommandSlot} {s : State} (r : Result)
    (index : Nat) (h : s.mgmt.queue = slot :: rest) :
    answerHead r index s = answered slot rest r index s := by
  unfold answerHead; rw [setHeadState_eq _ h]; rfl

/-- A single command that leaves the command queue alone is carried out and answered. -/
theorem takeCommand_eq {code : CommandCode} {body : List Byte} {slot : CommandSlot}
    {rest : List CommandSlot} {s t : State} {run : List Byte → CommandRun} {r : Result}
    (h : Takes code body slot rest s) (result : run body s = (r, t))
    (queue : t.mgmt.queue = s.mgmt.queue) :
    takeCommand code run s = answered slot rest r (singleIndex r) t := by
  simp only [takeCommand, headCommand_of_takes h, if_true, result]
  exact answerHead_eq _ _ (by rw [queue]; exact h.2.1)

theorem placeReply_eq {slot : CommandSlot} {rest : List CommandSlot} {s : State}
    (status : ReplyStatus) (payload : List Byte) (h : s.mgmt.queue = slot :: rest) :
    placeReply slot status payload s = accessReplied slot rest status payload s := by
  have tail : rest = s.mgmt.queue.tail := by rw [h]; rfl
  unfold placeReply accessReplied accessPacket
  rw [tail]; rfl

/-- Only a waiting head is captured for an area read. -/
theorem captureRead_eq {slot : CommandSlot} {rest : List CommandSlot} {s : State}
    (queue : s.mgmt.queue = slot :: rest) (h : slot.state ≠ .waiting) : captureRead s = s := by
  have none : headAccess s = none := by unfold headAccess waitingHead; rw [queue]; simp [h]
  unfold captureRead; rw [none]

/-! ### Commands do not look at the command queue -/

/-- The part with another command queue. -/
def withQueue (q : List CommandSlot) (s : State) : State :=
  { s with mgmt := { s.mgmt with queue := q } }

/-- What a command comes to, with another command queue. -/
def Machine.Run.withQueue (q : List CommandSlot) : Run → Run
  | .finished r s => .finished r (Sys2Proof.withQueue q s)
  | .suspended s => .suspended (Sys2Proof.withQueue q s)

theorem settleDrain_withQueue (q : List CommandSlot) (s : State) :
    settleDrain (withQueue q s) = (withQueue q (settleDrain s).1, (settleDrain s).2) := by
  unfold settleDrain
  by_cases h : s.commit.state = .draining ∧ s.commit.remaining = 0
  · rw [if_pos h, if_pos (show (withQueue q s).commit.state = .draining ∧
      (withQueue q s).commit.remaining = 0 from h)]; rfl
  · rw [if_neg h, if_neg (show ¬((withQueue q s).commit.state = .draining ∧
      (withQueue q s).commit.remaining = 0) from h)]

theorem raiseList_withQueue (q : List CommandSlot) (rs : List NoticeReq) (s : State) :
    raiseList rs (withQueue q s) = withQueue q (raiseList rs s) := by
  rw [raiseList_eq, raiseList_eq]; rfl

theorem takeSwap_withQueue (q : List CommandSlot) (s : State) :
    takeSwap (withQueue q s) = withQueue q (takeSwap s) := by
  have swapped : ({ withQueue q s with
      steering := (withQueue q s).steering.swap
      tracker := (withQueue q s).tracker.addFences (withQueue q s)
      ports := ⟨(withQueue q s).ports.u.placeFence .u ((withQueue q s).unit .u),
        (withQueue q s).ports.d.placeFence .d ((withQueue q s).unit .d)⟩
      commit := (withQueue q s).commit.start (withQueue q s)
        ((withQueue q s).tracker.addFences (withQueue q s)).entries.length } : State) =
      withQueue q { s with
        steering := s.steering.swap
        tracker := s.tracker.addFences s
        ports := ⟨s.ports.u.placeFence .u (s.unit .u), s.ports.d.placeFence .d (s.unit .d)⟩
        commit := s.commit.start s (s.tracker.addFences s).entries.length } := rfl
  unfold takeSwap
  simp only [swapped, settleDrain_withQueue, raiseList_withQueue]
  rfl

theorem forceDrain_withQueue (q : List CommandSlot) (s : State) :
    forceDrain (withQueue q s) = withQueue q (forceDrain s) := by
  unfold forceDrain
  dsimp only
  rw [show (withQueue q s).tracker = s.tracker from rfl,
    show (withQueue q s).commit = s.commit from rfl,
    show (withQueue q s).events = s.events from rfl,
    show (withQueue q s).timebase = s.timebase from rfl]
  generalize s.tracker.settle s.timebase _ = t
  generalize List.foldl Commit.takeReport _ _ = c
  rw [show ({ setTracker t (withQueue q s) with
      events := s.events + 1
      commit := { c with remaining := t.ofGeneration c.drainGeneration } } : State) =
      withQueue q { setTracker t s with
        events := s.events + 1
        commit := { c with remaining := t.ofGeneration c.drainGeneration } } from rfl,
    settleDrain_withQueue, raiseList_withQueue]

theorem applyEdit_withQueue (q : List CommandSlot) (edit : EditResult) (s : State) :
    applyEdit edit (withQueue q s) = ((applyEdit edit s).1, withQueue q (applyEdit edit s).2) := by
  cases edit <;> rfl

theorem refuseHeld_withQueue (q : List CommandSlot) (h : HoldSlot) (status : AnswerStatus)
    (s : State) : refuseHeld h status (withQueue q s) = withQueue q (refuseHeld h status s) := by
  unfold refuseHeld; split_ifs <;> rfl

theorem setParam_withQueue (q : List CommandSlot) (v : ParamValue) (s : State) :
    setParam v (withQueue q s) = ((setParam v s).1, withQueue q (setParam v s).2) := by
  have port : (withQueue q s).unit = s.unit := rfl
  have steering : (withQueue q s).steering = s.steering := rfl
  have params : (withQueue q s).mgmt.params = s.mgmt.params := rfl
  have barred : ∀ p n, unitBarred p n (withQueue q s) = unitBarred p n s := fun _ _ => rfl
  cases v <;> simp only [setParam, port, steering, params, barred] <;> (try split_ifs) <;> rfl

/-- No command looks at the command queue, and none changes it. -/
theorem runCommand_withQueue (q : List CommandSlot) (code : CommandCode) (body : List Byte)
    (s : State) :
    runCommand code body (withQueue q s) = (runCommand code body s).withQueue q := by
  have hold : (withQueue q s).hold = s.hold := rfl
  cases code <;> simp only [runCommand]
  case nop => rfl
  case insert => exact congrArg (fun r => Run.finished r.1 r.2) (applyEdit_withQueue q _ s)
  case remove => exact congrArg (fun r => Run.finished r.1 r.2) (applyEdit_withQueue q _ s)
  case modify => exact congrArg (fun r => Run.finished r.1 r.2) (applyEdit_withQueue q _ s)
  case move => exact congrArg (fun r => Run.finished r.1 r.2) (applyEdit_withQueue q _ s)
  case clearStaging => rfl
  case commit =>
    unfold runCommit
    rw [show coolingIndicator (withQueue q s) = coolingIndicator s from rfl,
      show (withQueue q s).commit = s.commit from rfl]
    simp only [takeSwap_withQueue]
    split_ifs <;> rfl
  case forceDrain =>
    unfold runForceDrain
    rw [show (withQueue q s).commit = s.commit from rfl]
    simp only [forceDrain_withQueue]
    split_ifs <;> rfl
  case release =>
    unfold startRelease
    simp only [hold]
    split_ifs
    · rfl
    · cases s.hold.findHeld (byteAt body 0) <;> rfl
  case discard =>
    unfold runDiscard
    simp only [hold]
    split_ifs
    · rfl
    · cases s.hold.findHeld (byteAt body 0)
      · rfl
      · simp only [refuseHeld_withQueue]; rfl
  case setParam =>
    unfold runSetParam
    cases paramOf body
    · rfl
    · simp only [setParam_withQueue]; rfl
  case setAperture =>
    unfold runSetAperture
    dsimp only
    rw [show (withQueue q s).mgmt.apertureBase = s.mgmt.apertureBase from rfl,
      show (withQueue q s).mgmt.pendingBase = s.mgmt.pendingBase from rfl]
    split_ifs <;> rfl
  case setManagers =>
    unfold runSetManagers
    dsimp only
    rw [show (withQueue q s).mgmt.locked = s.mgmt.locked from rfl]
    split_ifs <;> rfl
  case lockManagers => rfl
  case linkRestart =>
    unfold runLinkRestart
    rw [show (withQueue q s).port = s.port from rfl]
    split_ifs <;> rfl
  case warmReset => rfl
  case batch => rfl

theorem runMember_withQueue (q : List CommandSlot) (code : CommandCode) (body : List Byte)
    (last : Bool) (s : State) :
    runMember code body last (withQueue q s) = (runMember code body last s).withQueue q := by
  unfold runMember; split
  · rfl
  · exact runCommand_withQueue q code body s

/-- The state a member of a batch leaves. -/
def Machine.Run.state : Run → State
  | .finished _ s => s
  | .suspended s => s

theorem runMember_queue (code : CommandCode) (body : List Byte) (last : Bool) (s : State) :
    (runMember code body last s).state.mgmt.queue = s.mgmt.queue := by
  have h := runMember_withQueue s.mgmt.queue code body last s
  rw [show withQueue s.mgmt.queue s = s from rfl] at h
  rw [h]
  cases runMember code body last s <;> rfl

end Sys2Proof
end

