-- ==== Sys2Proof/Laws/Dispatch.lean ====
section
/-! SUPPORT. The dispatch in the words of Safety: which head is eligible, which is malformed, and what a
dispatch of a P or N head comes to. -/

namespace Sys2Proof

open Machine

theorem headEligible_iff (lp : LinkPort) (d : Dispatcher) (ch : Chan) :
    HeadEligible lp d ch ↔ eligible lp d ch = true := by
  unfold HeadEligible eligible
  cases (lp.ingress.get ch).head? with
  | none => simp
  | some slot => simp [or_iff_not_imp_left]

theorem malformed_iff (unit : UnitNo) (req : Packet) :
    Malformed unit req ↔ (malformation unit req).isSome = true := by
  have zero : req.length = 0 ↔ req.length.toNat = 0 :=
    ⟨fun h => by simp [h], fun h => BitVec.eq_of_toNat_eq (by simpa using h)⟩
  have most : Config.maxPayload = 256 := rfl
  unfold Malformed malformation
  simp only [Bool.and_eq_true, Bool.or_eq_true, decide_eq_true_eq, Bool.not_eq_true', zero, most]
  generalize req.length.toNat = n at *
  generalize req.address.toNat = m
  cases h : req.kind <;> simp [PacketKind.isAccess] <;> split_ifs <;> simp_all <;> omega

theorem malformation_eq_none {unit : UnitNo} {req : Packet} (h : ¬Malformed unit req) :
    malformation unit req = none := by
  rw [malformed_iff] at h; simpa using h

theorem inAperture_iff (p : Port) (req : Packet) (s : State) :
    InAperture p req s ↔ p = .u ∧ s.inAperture req.address = true := by
  simp [InAperture, State.inAperture]

/-- The dispatch of the head a free dispatcher takes. -/
theorem dispatch_takesHead {p : Port} {ch : Chan} {slot : InSlot} {s : State}
    (h : TakesHead p ch slot s) :
    exec (.dispatch p) s =
      .next (if ch = .c then setWork p .present s else dispatchRequest p ch slot s) := by
  obtain ⟨chosen, head⟩ := h
  simp only [exec, execDispatch, dispatchHead]
  rw [chosen]; dsimp only
  rw [show ((s.port p).ingress.get ch).head? = some slot from head]

/-- The dispatch of a P or N head that is neither aborted nor malformed. -/
theorem dispatch_takesRequest {p : Port} {ch : Chan} {req : Packet} {s : State}
    (h : TakesRequest p ch req s) :
    exec (.dispatch p) s = .next
      (if req.kind = .fence then fenceDispatch p ch req s
       else if p = .u ∧ s.inAperture req.address = true then apertureAccess p ch req s
       else carryOut p ch req (s.lookup false (requestOf p req)) s) := by
  obtain ⟨notC, sound, slot, head, rfl, notAborted⟩ := h
  rw [dispatch_takesHead head, if_neg notC]
  unfold dispatchRequest
  simp only [notAborted]
  rw [malformation_eq_none (unit := s.unit p) sound]
  simp only [Bool.false_eq_true, if_false]

/-- The dispatch of a request that is steered by its decision. -/
theorem dispatch_decides {p : Port} {ch : Chan} {req : Packet} {dec : Decision} {s : State}
    (h : Decides p ch req dec s) : exec (.dispatch p) s = .next (carryOut p ch req dec s) := by
  obtain ⟨taken, notFence, outside, rfl⟩ := h
  rw [dispatch_takesRequest taken, if_neg notFence, if_neg (by rw [← inAperture_iff]; exact outside)]
  rfl

/-! ### Refusals (R36) -/

theorem refuse_write (p : Port) (ch : Chan) (req : Packet) (status : ReplyStatus)
    (dec : Option Decision) (notices : List NoticeReq) (s : State) (h : req.kind = .write) :
    refuse p ch req status dec notices s = complete p ch dec notices s := by
  unfold refuse; rw [if_pos h]

theorem refuse_placed (p : Port) (ch : Chan) (req : Packet) (status : ReplyStatus)
    (dec : Option Decision) (notices : List NoticeReq) (s : State) (h : req.kind ≠ .write)
    (room : TakesOffer p .c s) :
    refuse p ch req status dec notices s =
      complete p ch dec notices (repliedTo p req status s) := by
  unfold refuse; rw [if_neg h, if_pos ((takesOffer_iff _ _ _).1 room)]; rfl

theorem refuse_dropped (p : Port) (ch : Chan) (req : Packet) (status : ReplyStatus)
    (dec : Option Decision) (notices : List NoticeReq) (s : State) (h : req.kind ≠ .write)
    (full : ¬TakesOffer p .c s) :
    refuse p ch req status dec notices s = headDropped p ch [.transmit p .c] s := by
  unfold refuse; rw [if_neg h, if_neg fun a => full ((takesOffer_iff _ _ _).2 a)]; rfl

/-- A dispatch completes: the head leaves, the notice is raised, and the decision is reported. -/
theorem complete_eq (p : Port) (ch : Chan) (dec : Decision) (notice : Option NoticeReq) (s : State) :
    complete p ch (some dec) notice.toList s =
      reportedBy p dec (maybeNoticed notice (headLeft p ch s)) := by
  cases notice <;> rfl

end Sys2Proof
end

