-- ==== Sys2Proof/Laws/Drain.lean ====
section
/-! SUPPORT. What the drain reports do: the end of a drain, and the report of one removal. -/

namespace Sys2Proof

open Machine

theorem outcome_eq (c : Commit) : c.outcome = outcomeOf c := by
  unfold Commit.outcome outcomeOf LateCauses.isEmpty
  cases c.forced <;> cases c.late.timeout <;> cases c.late.linkDown <;> cases c.late.aborted <;>
    cases c.late.skipped <;> rfl

theorem commitDoneNotice_eq (c : Commit) :
    commitDoneNotice c.drainGeneration c.lastOutcome = commitDoneFor c := by
  unfold commitDoneFor; rw [outcomeDetail_eq]; rfl

theorem lateCauses_add (c : Cause) (l : LateCauses) : l.add c = lateAfter c l := by
  cases l; cases c <;> simp [LateCauses.add, lateAfter]

theorem drainEnded_remaining (now : Time) (entries : List TrackEntry) (c : Commit) (n : Nat) :
    drainEnded now entries { c with remaining := n } = drainEnded now entries c := by
  unfold drainEnded; dsimp only; split <;> rfl

/-- During a drain whose remaining count is right, `settleDrain` ends the drain when none is left. -/
theorem settleDrain_eq (s : State) (draining : s.commit.state = .draining)
    (count : s.commit.remaining = s.tracker.ofGeneration s.commit.drainGeneration) :
    settleDrain s =
      let c := drainEnded s.timebase s.tracker.entries s.commit
      ({ s with commit := c }, if c.state = .idle then [commitDoneFor c] else []) := by
  unfold settleDrain drainEnded
  unfold Tracker.ofGeneration at count
  rw [← count]
  by_cases none : s.commit.remaining = 0
  · rw [if_pos ⟨draining, none⟩]
    simp only [none, if_true]
    rw [← outcome_eq, ← none, ← commitDoneNotice_eq]
  · rw [if_neg (fun h => none h.2)]
    simp only [none, if_false, draining]
    cases s
    simp only [reduceCtorEq, if_false, Prod.mk.injEq, and_true]
    rw [← draining]

/-- Reports taken during a drain, folded into the Commit Status, and the end of the drain. -/
theorem takeReports_eq (rs : List Removal) (u : State) : takeReports rs u =
    if u.commit.state = .draining ∧ reported u rs ≠ [] then
      let c := drainEnded u.timebase u.tracker.entries
        ((reported u rs).foldl Commit.takeReport u.commit)
      ({ u with commit := c }, if c.state = .idle then [commitDoneFor c] else [])
    else (u, []) := by
  have state : ∀ (l : List Removal) (c : Commit), (l.foldl Commit.takeReport c).state = c.state := by
    intro l
    induction l with
    | nil => intro c; rfl
    | cons r l ih => intro c; rw [List.foldl_cons, ih]; rfl
  unfold takeReports
  split
  · next h =>
    dsimp only
    rw [settleDrain_eq _ (by simpa [state] using h.1) rfl]
    dsimp only
    rw [drainEnded_remaining]
  · rfl

/-- The report of one removal, and the COMMIT_DONE of a drain that it ends. -/
theorem takeReports_one (e : TrackEntry) (cause : Cause) (u : State) : takeReports [⟨e, cause⟩] u =
    ({ u with commit := drainAfter u e cause },
      if u.commit.state = .draining ∧ (drainAfter u e cause).state = .idle then
        [commitDoneFor (drainAfter u e cause)] else []) := by
  rw [takeReports_eq]
  unfold drainAfter reported
  rw [fenceStateOf_eq]
  by_cases current : e.generation = u.steering.generation <;>
    by_cases draining : u.commit.state = .draining <;>
      simp [State.generation, current, draining, Commit.takeReport, lateCauses_add]

/-- The reports of the removals of a port-down. -/
theorem takeReports_linkDown (removed : List TrackEntry) (u : State) :
    takeReports (removed.map fun e => ⟨e, .linkDown⟩) u =
      ({ u with commit := drainAfterPortDown u removed },
        if u.commit.state = .draining ∧ (drainAfterPortDown u removed).state = .idle then
          [commitDoneFor (drainAfterPortDown u removed)] else []) := by
  have told : reported u (removed.map fun e => ⟨e, .linkDown⟩) =
      (removed.filter fun e => e.generation ≠ u.steering.generation).map fun e =>
        ⟨e, .linkDown⟩ := by
    unfold reported; rw [List.filter_map]; rfl
  have fold : ∀ (l : List TrackEntry) (c : Commit), l ≠ [] →
      (l.map fun e => (⟨e, .linkDown⟩ : Removal)).foldl Commit.takeReport c = { c with
        late := { c.late with linkDown := true }
        fences := l.foldl (fun fences e =>
          if e.kind = .drainFence then fences.set e.egress .portDown else fences) c.fences } := by
    intro l
    induction l with
    | nil => intro c h; exact absurd rfl h
    | cons e l ih =>
      intro c _
      rw [List.map_cons, List.foldl_cons]
      by_cases last : l = []
      · subst last; rfl
      · rw [ih _ last]; rfl
  rw [takeReports_eq, told]
  unfold drainAfterPortDown
  by_cases draining : u.commit.state = .draining
  · by_cases none : (removed.filter fun e => e.generation ≠ u.steering.generation) = []
    · simp only [none]; simp [draining]
    · rw [if_pos ⟨draining, by simpa using none⟩, if_pos ⟨draining, none⟩, fold _ _ none]
      simp only [draining, true_and]
  · simp [draining]

/-- The report of one removal is what Safety's `Reported` says. -/
theorem reportRemovals_reported (e : TrackEntry) (cause : Cause) (notices : List NoticeReq)
    (u : State) : Reported e cause notices u (reportRemovals [⟨e, cause⟩] notices u) := by
  unfold reportRemovals
  simp only [takeReports_one]
  obtain ⟨order, perm, _, eq⟩ := raiseTogether_eq
    [notices, if u.commit.state = .draining ∧ (drainAfter u e cause).state = .idle then
      [commitDoneFor (drainAfter u e cause)] else []] { u with commit := drainAfter u e cause }
  rw [eq]
  exact ⟨rfl, order, by simpa using perm, rfl⟩

theorem coolEntry_reported (e : TrackEntry) (cause : Cause) (notices : List NoticeReq) (s : State) :
    Reported e cause notices (tagCooled e s) (coolEntry e cause notices s) :=
  reportRemovals_reported _ _ _ _

end Sys2Proof
end

