-- ==== Sys2Proof/Laws/Expiries.lean ====
section
/-! SUPPORT. Which expiries are due when a test of their deadlines is given, in the words of Safety: one
lemma for each kind of deadline. The test is `reached` in the expiry commands and `atLimit` in the tick. -/

namespace Sys2Proof

open Machine

variable {test : Time → Time → Bool} {past : Time → Prop} {s : State}
  (agree : ∀ d, test s.timebase d = true ↔ past d)

include agree

theorem dueAttempt_iff (p : Port) (a : Attempt) : dueAttempt test p s = some a ↔
    (s.port p).attempt = some a ∧ past a.deadline := by
  unfold dueAttempt; rw [Option.filter_eq_some_iff, agree]

theorem dueAck_iff (p : Port) : dueAck test p s = true ↔
    (s.port p).state = .up ∧ ∃ d, (s.port p).ackDeadline = some d ∧ past d := by
  unfold dueAck
  rw [Bool.and_eq_true, decide_eq_true_iff, Option.any_eq_true]
  simp only [agree]

theorem dueHoldOff_iff : dueHoldOff test s = true ↔
    (s.port .u).state = .faulted ∧ ∃ d, (s.port .u).holdOff = some d ∧ past d := by
  unfold dueHoldOff
  rw [Bool.and_eq_true, decide_eq_true_iff, Option.any_eq_true]
  simp only [agree]

theorem dueAwaiting_iff (tag : Tag) (e : TrackEntry) : dueAwaiting test tag s = some e ↔
    entryUnder tag s = some e ∧ e.state = .awaiting ∧ e.kind ≠ .drainFence ∧ past e.deadline := by
  unfold dueAwaiting
  simp only [Option.filter_eq_some_iff, Bool.and_eq_true, decide_eq_true_iff, agree, and_assoc]
  rfl

theorem dueFence_iff (p : Port) (e : TrackEntry) : dueFence test p s = some e ↔
    entryUnder (fenceTagOf p) s = some e ∧ e.state = .awaiting ∧ e.kind = .drainFence ∧
      past e.deadline := by
  unfold dueFence
  rw [fenceTagOf_eq]
  simp only [Option.filter_eq_some_iff, Bool.and_eq_true, decide_eq_true_iff, agree, and_assoc]
  rfl

theorem dueOrphan_iff (tag : Tag) (e : TrackEntry) : dueOrphan test tag s = some e ↔
    entryUnder tag s = some e ∧ e.state = .orphaned ∧ past e.deadline := by
  unfold dueOrphan
  simp only [Option.filter_eq_some_iff, Bool.and_eq_true, decide_eq_true_iff, agree]
  rfl

theorem dueCooling_iff (tag : Tag) : dueCooling test tag s = true ↔
    ∃ m ∈ s.tracker.cooling, m.tag = tag ∧ past m.release := by
  unfold dueCooling
  simp only [List.any_eq_true, Bool.and_eq_true, decide_eq_true_iff, agree]

theorem dueHeld_iff (id : HoldId) (h : HoldSlot) : dueHeld test id s = some h ↔
    heldUnder id s = some h ∧ ∃ d, h.state = .held d ∧ past d ∧
      ∀ r, s.hold.release = some r → r.record.id = id → r.phase = .waiting := by
  have steps : s.hold.inSteps id = false ↔
      ∀ r, s.hold.release = some r → r.record.id = id → r.phase = .waiting := by
    unfold HoldQueue.inSteps
    cases s.hold.release <;> simp
  unfold dueHeld
  rw [Option.filter_eq_some_iff, heldUnder_eq]
  cases h.state <;> simp [agree, steps]

end Sys2Proof
end

