-- ==== Sys2Proof/Laws/Hold.lean ====
section
/-! SUPPORT. The Hold Queue: the record of an id, the id of a new record, and the ends of a release. -/

namespace Sys2Proof

open Machine

theorem refuseHeld_eq (h : HoldSlot) (status : AnswerStatus) (s : State) :
    refuseHeld h status s = heldRefused h status s := rfl

theorem expireHeld_eq (h : HoldSlot) (s : State) : expireHeld h s = heldExpired h s := rfl

@[simp] theorem heldRefused_mgmt (h : HoldSlot) (status : AnswerStatus) (s : State) :
    (heldRefused h status s).mgmt = s.mgmt := by
  unfold heldRefused slotFreed resourceFreed; split <;> rfl

@[simp] theorem heldRefused_release (h : HoldSlot) (status : AnswerStatus) (s : State) :
    (heldRefused h status s).hold.release = s.hold.release := by
  unfold heldRefused slotFreed resourceFreed; split <;> rfl

theorem findHeld_eq_none {q : HoldQueue} {id : HoldId}
    (h : ∀ x ∈ q.slots, x.id = id → ∀ d, x.state ≠ .held d) : q.findHeld id = none := by
  unfold HoldQueue.findHeld
  rw [List.find?_eq_none]
  intro x hx
  simp only [Bool.and_eq_true, decide_eq_true_eq, not_and]
  intro hid
  cases hs : x.state with
  | held d => exact absurd hs (h x hx hid d)
  | answering _ _ => simp [HoldState.isHeld]

theorem findHeld_spec {q : HoldQueue} {id : HoldId} {h : HoldSlot} (found : q.findHeld id = some h) :
    h.id = id ∧ h ∈ q.slots ∧ ∃ d, h.state = .held d := by
  have passed := List.find?_some found
  simp only [Bool.and_eq_true, decide_eq_true_eq] at passed
  refine ⟨passed.1, List.mem_of_find?_eq_some found, ?_⟩
  cases hs : h.state with
  | held d => exact ⟨d, rfl⟩
  | answering _ _ => rw [hs] at passed; simp [HoldState.isHeld] at passed

/-- The ids 1 to 255 counted from the last one are all different. -/
theorem idAfter_injective (h : HoldQueue) {i j : Nat} (hi : i < 255) (hj : j < 255)
    (same : h.idAfter i = h.idAfter j) : i = j := by
  have := congrArg BitVec.toNat same
  simp only [HoldQueue.idAfter, BitVec.toNat_ofNat] at this
  omega

/-- With a slot free, a new id is the first after the last one that no occupied slot carries. -/
theorem nextId_spec (h : HoldQueue) (free : h.slots.length < 8) :
    ∃ k < 255, h.nextId = h.idAfter k ∧ (∀ x ∈ h.slots, x.id ≠ h.idAfter k) ∧
      ∀ j < k, ∃ x ∈ h.slots, x.id = h.idAfter j := by
  have carries : ∀ id, h.carries id = true ↔ ∃ x ∈ h.slots, x.id = id := by
    intro id; simp [HoldQueue.carries]
  by_cases some : ∃ k < 255, h.carries (h.idAfter k) = false
  · classical
    have least := Nat.find_spec some
    refine ⟨Nat.find some, least.1, ?_, ?_, ?_⟩
    · have found : ((List.range 255).map h.idAfter).find? (fun id => !h.carries id) =
          Option.some (h.idAfter (Nat.find some)) := by
        rw [List.find?_map, List.find?_range_eq_some.2]
        · rfl
        · refine ⟨by simp [least.2], List.mem_range.2 least.1, fun j hj => ?_⟩
          have before := Nat.find_min some hj
          simp only [not_and, Bool.not_eq_false] at before
          simp [before (Nat.lt_trans hj least.1)]
      unfold HoldQueue.nextId
      rw [found]; rfl
    · intro x hx hid
      have := (carries (h.idAfter (Nat.find some))).2 ⟨x, hx, hid⟩
      rw [least.2] at this; cases this
    · intro j hj
      have before := Nat.find_min some hj
      simp only [not_and, Bool.not_eq_false] at before
      exact (carries _).1 (before (Nat.lt_trans hj least.1))
  · exfalso
    push Not at some
    have sub : ((List.range 255).map h.idAfter) ⊆ h.slots.map (·.id) := by
      intro y hy
      simp only [List.mem_map, List.mem_range] at hy
      obtain ⟨k, hk, rfl⟩ := hy
      obtain ⟨x, hx, hid⟩ := (carries _).1 (by simpa using some k hk)
      exact List.mem_map.2 ⟨x, hx, hid⟩
    have nodup : ((List.range 255).map h.idAfter).Nodup := by
      rw [List.nodup_map_iff_inj_on List.nodup_range]
      intro a ha b hb
      exact idAfter_injective h (by simpa using ha) (by simpa using hb)
    have := (List.subperm_of_subset nodup sub).length_le
    simp at this; omega

/-! ### Releases -/

theorem releasing_eq {phase : ReleasePhase} {h : HoldSlot} {mark : Option Nat} {delivers : Bool}
    {s : State} (r : Releasing phase h mark delivers s) :
    releasing s = some (⟨h, mark, phase, delivers⟩, h) := by
  obtain ⟨inProgress, stands, ⟨d, held⟩⟩ := r
  unfold releasing
  rw [inProgress]
  dsimp only
  rw [if_pos]
  unfold HoldQueue.stillHeld
  simp [stands, held, HoldState.isHeld]

/-- The step a release takes next, by its phase. -/
theorem releaseSteps_eq {phase : ReleasePhase} {h : HoldSlot} {mark : Option Nat} {delivers : Bool}
    {s : State} (r : Releasing phase h mark delivers s) :
    exec .releaseSteps s = .next (match phase with
      | .waiting => s
      | .lookup => releaseLookup ⟨h, mark, phase, delivers⟩ h s
      | .pOffer dec => releasePOffer ⟨h, mark, phase, delivers⟩ h dec s
      | .allocate dec => releaseAllocation ⟨h, mark, phase, delivers⟩ h dec s
      | .place dec e => releasePlacement h dec e s) := by
  simp only [exec, execReleaseSteps, nextReleaseStep]
  rw [releasing_eq r]
  cases phase <;> rfl

theorem setPhase_eq {phase : ReleasePhase} {h : HoldSlot} {mark : Option Nat} {delivers : Bool}
    {s t : State} (inProgress : s.hold.release = some ⟨h, mark, phase, delivers⟩)
    (next : ReleasePhase) (same : t.hold = s.hold) :
    setPhase ⟨h, mark, phase, delivers⟩ next t = releaseGoesOn next t := by
  unfold setPhase releaseGoesOn
  rw [same, inProgress]; rfl

/-- A release that ends delivers its result, to a single RELEASE, to a batch or to nothing. -/
theorem endRelease_eq {r : Release} {t : State} (inProgress : t.hold.release = some r) (result : Result)
    (notAccepted : result.code ≠ .accepted) :
    endRelease result t = releaseEnded r.delivers result t := by
  have ok : result.code.ok = decide (result.code = .done) := by
    unfold ResultCode.ok; simp [notAccepted]
  unfold endRelease releaseEnded resultDelivered
  simp only [inProgress, Option.any_some, setHold_mgmt]
  cases r.delivers
  · rfl
  · simp only [if_true]
    cases queue : t.mgmt.queue with
    | nil => rfl
    | cons slot rest =>
      obtain ⟨_, _, _, _, _, _, _, state⟩ := slot
      have single : singleIndex result = if result.code = .done then 0 else 1 := by
        unfold singleIndex; rw [ok]; simp
      by_cases done : result.code = .done <;> cases state with
      | executingBatch run =>
        by_cases last : run.todo = [] <;>
          simp [answerHead, setHeadState, queue, ok, done, last] <;> rfl
      | executing => simp [answerHead, setHeadState, queue, single, done]; rfl
      | _ => rfl

end Sys2Proof
end

