-- ==== Sys2Proof/Laws/Link.lean ====
section
/-! SUPPORT. The link ports: the heads that compete for a link, a port-down as a whole, and what a failed
training attempt comes to. -/

namespace Sys2Proof

open Machine

/-! ### Offers and heads -/

theorem lanesOf_iff (b : Byte) (l : Lanes) : lanesOf b = some l ↔ b.toNat = l.count := by
  unfold lanesOf
  simp only [← BitVec.toNat_inj]
  cases l <;> split_ifs <;> simp_all [Lanes.count]

theorem rateOf_iff (b : Byte) (r : Rate) : rateOf b = some r ↔ b.toNat = r.gbit := by
  unfold rateOf
  simp only [← BitVec.toNat_inj]
  cases r <;> split_ifs <;> simp_all [Rate.gbit]

theorem offers_iff (o : Offer) (lanes rate : Byte) :
    Offers o lanes rate ↔ offerOf lanes rate = some o := by
  unfold Offers offerOf
  rw [laneCount_eq, gigabits_eq, ← lanesOf_iff, ← rateOf_iff]
  cases lanesOf lanes <;> cases rateOf rate <;> cases o <;> simp

theorem competes_iff (lp : LinkPort) (ch : Chan) (slot : OutSlot) (fromFence : Bool) :
    Competes lp ch slot fromFence ↔ lp.headOf ch = some (slot, fromFence) := by
  unfold Competes LinkPort.headOf
  cases ch with
  | n =>
    cases h : lp.transmit.n <;> cases f : lp.fenceSlot <;>
      simp only [LinkPort.nPacket, Trio.get, h, f, List.head?, Option.mem_def, Option.some.injEq,
        forall_eq', reduceCtorEq, false_and, and_false, or_false, false_or, forall_true_left,
        Prod.mk.injEq, true_and, IsEmpty.forall_iff, implies_true, and_true]
    · exact and_comm.trans (and_congr_right fun _ => eq_comm)
    · exact and_comm.trans (and_congr_right fun _ => eq_comm)
    · split
      all_goals
        simp only [Option.some.injEq, Prod.mk.injEq]
        constructor
        · rintro (⟨rfl, rfl, h⟩ | ⟨rfl, rfl, h⟩) <;> first | exact ⟨rfl, rfl⟩ | omega
        · rintro ⟨rfl, rfl⟩
          first | exact .inl ⟨rfl, rfl, by omega⟩ | exact .inr ⟨rfl, rfl, by omega⟩
  | _ =>
    simp only [Trio.get, reduceCtorEq, false_and, and_false, or_false, IsEmpty.forall_iff, and_true,
      Option.map_eq_some_iff, Prod.mk.injEq]
    constructor
    · rintro ⟨rfl, h⟩; exact ⟨slot, h, rfl, rfl⟩
    · rintro ⟨_, h, rfl, rfl⟩; exact ⟨rfl, h⟩

theorem headSendable_iff (lp : LinkPort) (ch : Chan) :
    HeadSendable lp ch ↔ lp.sendable ch = true := by
  unfold HeadSendable LinkPort.sendable LinkPort.inFlight
  simp only [competes_iff]
  cases lp.headOf ch with
  | none => simp
  | some head =>
    obtain ⟨slot, fromFence⟩ := head
    simp only [Option.some.injEq, Prod.mk.injEq, Config.replayCapacity, Bool.and_eq_true,
      decide_eq_true_eq, Bool.or_eq_true, List.all_eq_true, ne_eq, and_assoc]
    constructor
    · rintro ⟨_, _, rfl, rfl, up, room, credit, older⟩
      exact ⟨up, decide_eq_true room, credit, by by_cases h : ch = .n <;> simp_all⟩
    · rintro ⟨up, room, credit, older⟩
      exact ⟨slot, fromFence, rfl, rfl, up, of_decide_eq_true room, credit, fun h => by simpa [h] using older⟩

/-! ### Port down -/

/-- The parts of the port-down before the release and the tracker: the port, its dispatcher and the
Management Unit. -/
def portDownBegun (p : Port) (s : State) : State :=
  managementPortDown p
    (dispatcherPortDown p (s.setPort p (((s.port p).goDown).fault p s.timebase)))

theorem portDownBegun_release (p : Port) (s : State) : (portDownBegun p s).hold.release =
    s.hold.release.map fun r => { r with delivers := r.delivers && decide (p ≠ Port.u) } := by
  cases p <;> cases h : s.hold.release <;>
    simp [portDownBegun, managementPortDown, dispatcherPortDown, h]

@[simp] theorem portDownBegun_tracker (p : Port) (s : State) :
    (portDownBegun p s).tracker = s.tracker := by cases p <;> rfl

@[simp] theorem portDownBegun_commit (p : Port) (s : State) :
    (portDownBegun p s).commit = s.commit := by cases p <;> rfl

theorem entryWithdrawn_eq_none {p : Port} {s : State} (h : releaseStopped p s = none) :
    entryWithdrawn p s = none := by
  unfold entryWithdrawn; rw [h]

/-- What a port-down makes of the release in progress, and the notice of a drain that its hand-back ends. -/
theorem releasePortDown_eq (p : Port) (s : State) :
    let back := afterHandBack p s
    let u := { portDownBegun p s with tracker := back.1, commit := back.2 }
    releasePortDown p (portDownBegun p s) =
      (match releaseStopped p s with
        | none => u
        | some r => releaseEnded (r.delivers && decide (p ≠ Port.u)) ⟨.originDown, 0⟩ u,
      if s.commit.state = .draining ∧ back.2.state = .idle then [commitDoneFor back.2] else []) := by
  have keeps : entryWithdrawn p s = none → ∀ t : State × List NoticeReq,
      t = (portDownBegun p s, []) →
      t = ({ portDownBegun p s with
          tracker := (afterHandBack p s).1, commit := (afterHandBack p s).2 },
        if s.commit.state = .draining ∧ (afterHandBack p s).2.state = .idle then
          [commitDoneFor (afterHandBack p s).2] else []) := by
    intro none t h
    have back : afterHandBack p s = (s.tracker, s.commit) := by unfold afterHandBack; rw [none]
    rw [h, back, if_neg (by rintro ⟨h1, h2⟩; rw [h1] at h2; cases h2)]
    cases p <;> rfl
  have release := portDownBegun_release p s
  have find : ∀ tag, (portDownBegun p s).tracker.find tag = s.tracker.find tag := by
    intro tag; simp [portDownBegun, dispatcherPortDown]
  unfold releasePortDown
  cases held : s.hold.release with
  | none =>
    have stopped : releaseStopped p s = none := by unfold releaseStopped; rw [held]; rfl
    rw [release, held, stopped]
    exact keeps (entryWithdrawn_eq_none stopped) _ rfl
  | some r =>
    rw [release, held]
    simp only [Option.map_some]
    by_cases steps : r.record.origin = p ∧ r.phase ≠ .waiting
    · have stopped : releaseStopped p s = some r := by
        unfold releaseStopped; rw [held]; simp [steps.1, steps.2]
      rw [if_pos steps, stopped]
      have ends : ∀ t : State, t.hold.release = (portDownBegun p s).hold.release →
          endRelease (refusal .originDown) t =
            releaseEnded (r.delivers && decide (p ≠ Port.u)) ⟨.originDown, 0⟩ t := by
        intro t same
        exact endRelease_eq (r := { r with delivers := r.delivers && decide (p ≠ Port.u) })
          (by rw [same, release, held]; rfl) _ (by simp [refusal])
      have untouched : entryWithdrawn p s = none →
          (endRelease (refusal .originDown) (portDownBegun p s), ([] : List NoticeReq)) =
            (releaseEnded (r.delivers && decide (p ≠ Port.u)) ⟨.originDown, 0⟩
              { portDownBegun p s with
                tracker := (afterHandBack p s).1, commit := (afterHandBack p s).2 },
            if s.commit.state = .draining ∧ (afterHandBack p s).2.state = .idle then
              [commitDoneFor (afterHandBack p s).2] else []) := by
        intro none
        obtain ⟨same, quiet⟩ := Prod.ext_iff.1 (keeps none _ rfl)
        rw [ends _ rfl]
        exact Prod.ext (congrArg (releaseEnded _ _) same) quiet
      obtain ⟨record, mark, phase, delivers⟩ := r
      cases phase with
      | place dec e =>
        simp only [find]
        by_cases same : s.tracker.find e.tag = some e
        · have taken : entryWithdrawn p s = some e := by
            unfold entryWithdrawn; rw [stopped]; exact if_pos same
          rw [if_pos same]
          have back : afterHandBack p s =
              let v := { s with tracker :=
                { entryRemoved e.tag s.tracker with free := e.tag :: s.tracker.free } }
              (v.tracker, drainAfter v e .withdrawn) := by unfold afterHandBack; rw [taken]
          rw [back]
          refine Prod.ext ((ends _ (by simp)).trans (congrArg _ ?_)) ?_
          all_goals
            unfold withdraw
            rw [takeReports_one]
            cases p <;> rfl
        · rw [if_neg same]
          exact untouched (by unfold entryWithdrawn; rw [stopped]; exact if_neg same)
      | _ => exact untouched (by unfold entryWithdrawn; rw [stopped])
    · have stopped : releaseStopped p s = none := by
        unfold releaseStopped; rw [held]; simpa using steps
      rw [if_neg steps, stopped]
      exact keeps (entryWithdrawn_eq_none stopped) _ rfl

theorem releaseEnded_eq (delivers : Bool) (r : Result) (t : State) : releaseEnded delivers r t =
    { t with
      hold := { t.hold with release := none }
      mgmt := (resultDelivered delivers r t).mgmt } := by
  unfold releaseEnded resultDelivered
  cases delivers
  · rfl
  · cases queue : t.mgmt.queue with
    | nil => rfl
    | cons slot rest =>
      obtain ⟨_, _, _, _, _, _, _, state⟩ := slot
      cases state with
      | executingBatch run => by_cases done : r.code = .done <;> by_cases last : run.todo = [] <;>
          simp [answered, batchGoesOn, done, last]
      | _ => rfl

theorem resultDelivered_mgmt (delivers : Bool) (r : Result) {s t : State} (same : t.mgmt = s.mgmt) :
    (resultDelivered delivers r t).mgmt = (resultDelivered delivers r s).mgmt := by
  unfold resultDelivered
  rw [same]
  cases delivers
  · exact same
  · cases s.mgmt.queue with
    | nil => exact same
    | cons slot rest =>
      obtain ⟨_, _, _, _, _, _, _, state⟩ := slot
      cases state with
      | executingBatch run => by_cases done : r.code = .done <;> by_cases last : run.todo = [] <;>
          simp [answered, batchGoesOn, done, last, same]
      | executing => simp [answered, same]
      | _ => exact same

/-- What a port-down makes of one tracker entry. -/
theorem portDownFate_eq (p : Port) (s : State) (down : Port → Bool)
    (same : ∀ q, q ≠ p → down q = (s.port q).state.down) (e : TrackEntry) :
    portDownFate p down s.events e =
      if removedByPortDown p s e then .cool .linkDown
      else .stay { e with state := stateAfterPortDown p s e } := by
  obtain ⟨tag, state, kind, origin, egress⟩ := e
  have other : ∀ o : Origin, (o.port = p ∨ down o.port = true) ↔
      (o.port = p ∨ portIsDown o.port s = true) := by
    intro o
    rw [portIsDown_eq]
    by_cases h : o.port = p
    · simp [h]
    · simp [h, same _ h]
  unfold portDownFate removedByPortDown stateAfterPortDown TrackEntry.originIs
  cases state with
  | awaiting =>
    cases origin with
    | none => by_cases h : egress = p <;> simp [h]
    | some o =>
      by_cases h : egress = p
      · have either := other o
        by_cases gone : o.port = p ∨ down o.port = true
        · simp [h, gone, either.1 gone]
        · have stays := fun k => gone (either.2 k)
          change ¬_ at stays
          simp only [not_or, Bool.not_eq_true] at stays
          simp [h, TrackEntry.close, stays, (not_or.1 gone).2]
      · by_cases own : o.port = p <;> simp [h, own]
  | _ => cases origin <;> by_cases h : egress = p <;> simp [h]

/-- The tracker at a port-down. -/
theorem trackerPortDown_eq (p : Port) (s u : State) (events : u.events = s.events)
    (steering : u.steering = s.steering)
    (time : u.timebase = s.timebase) (ports : ∀ q, q ≠ p → u.port q = s.port q) :
    trackerPortDown p u =
      let removed := u.tracker.entries.filter (removedByPortDown p s)
      let tracker := { u.tracker with
        entries := (u.tracker.entries.filter fun e => !removedByPortDown p s e).map fun e =>
          { e with state := stateAfterPortDown p s e }
        cooling := u.tracker.cooling ++ removed.map fun e => ⟨e.tag, s.timebase + e.timeout⟩ }
      let commit := drainAfterPortDown { s with tracker := tracker, commit := u.commit } removed
      ({ u with tracker := tracker, commit := commit, events := s.events + 1 },
        if u.commit.state = .draining ∧ commit.state = .idle then [commitDoneFor commit] else []) := by
  have fate : portDownFate p (fun q => (u.port q).state.down) u.events =
      fun e => if removedByPortDown p s e then .cool .linkDown
        else .stay { e with state := stateAfterPortDown p s e } := by
    funext e
    rw [events]
    exact portDownFate_eq p s _ (fun q hq => by rw [ports q hq]) e
  have stays : ∀ l : List TrackEntry, l.filterMap (fun e =>
      match (if removedByPortDown p s e then Fate.cool .linkDown
        else .stay { e with state := stateAfterPortDown p s e }) with
      | .stay e' => some e'
      | .cool _ => none) = (l.filter fun e => !removedByPortDown p s e).map fun e =>
        { e with state := stateAfterPortDown p s e } := by
    intro l
    induction l with
    | nil => rfl
    | cons e l ih => by_cases h : removedByPortDown p s e = true <;> simp [h, ih]
  have goes : ∀ l : List TrackEntry, removals (fun e => if removedByPortDown p s e then .cool .linkDown
        else .stay { e with state := stateAfterPortDown p s e }) l =
      (l.filter (removedByPortDown p s)).map fun e => ⟨e, .linkDown⟩ := by
    intro l
    unfold removals
    induction l with
    | nil => rfl
    | cons e l ih => by_cases h : removedByPortDown p s e = true <;> simp [h, ih]
  unfold trackerPortDown
  dsimp only
  rw [fate, goes, takeReports_linkDown]
  have same : ∀ (v w : State) (l : List TrackEntry), v.commit = w.commit → v.steering = w.steering →
      v.timebase = w.timebase → v.tracker = w.tracker →
      drainAfterPortDown v l = drainAfterPortDown w l := by
    intro v w l h1 h2 h3 h4
    unfold drainAfterPortDown; rw [h1, h2, h3, h4]
  have commits := same
    { setTracker (u.tracker.settle u.timebase fun e =>
        if removedByPortDown p s e then .cool .linkDown
        else .stay { e with state := stateAfterPortDown p s e }) u with events := u.events + 1 }
    { s with
      tracker := u.tracker.settle u.timebase fun e =>
        if removedByPortDown p s e then .cool .linkDown
        else .stay { e with state := stateAfterPortDown p s e }
      commit := u.commit } (u.tracker.entries.filter (removedByPortDown p s)) rfl steering time rfl
  rw [commits]
  have settled : (u.tracker.settle u.timebase fun e =>
        if removedByPortDown p s e then .cool .linkDown
        else .stay { e with state := stateAfterPortDown p s e }) =
      { u.tracker with
        entries := (u.tracker.entries.filter fun e => !removedByPortDown p s e).map fun e =>
          { e with state := stateAfterPortDown p s e }
        cooling := u.tracker.cooling ++ (u.tracker.entries.filter (removedByPortDown p s)).map
          fun e => ⟨e.tag, s.timebase + e.timeout⟩ } := by
    unfold Tracker.settle
    rw [goes, time, List.map_map]
    exact congrArg (fun l => Tracker.mk l u.tracker.free _) (stays _)
  rw [settled, events]
  rfl

/-- The Hold Queue at a port-down, but for wait marks, which the port's change of state clears. -/
theorem holdPortDown_eq (p : Port) (t : State) : ∃ ds : Duo Dispatcher,
    (ds.map fun d => { d with marks := ⟨[], [], []⟩ }) =
      (t.dispatchers.map fun d => { d with marks := ⟨[], [], []⟩ }) ∧
    holdPortDown p t = ({ t with
        hold := { t.hold with slots := t.hold.slots.filter fun h => h.origin ≠ p }
        dispatchers := ds },
      (t.hold.slots.filter fun h => h.origin = p ∧ h.state.isHeld = true).map
        (holdNoticed .holdDropped)) := by
  have both : (t.hold.slots.filter fun h => h.origin = p ∧ h.state.isHeld = true) =
      (t.hold.slots.filter fun h => h.origin = p).filter fun h => h.state.isHeld := by
    rw [List.filter_filter]; congr; funext h; simp [Bool.and_comm]
  unfold holdPortDown
  dsimp only
  rw [both]
  split
  · exact ⟨t.dispatchers, rfl, rfl⟩
  · exact ⟨t.dispatchers.map fun d => { d with marks := d.marks.map (clearMark .holdSlot) }, rfl, rfl⟩

/-- The last of a port-down: the Hold Queue's part and the notices of every block. -/
theorem portDownEnded_eq (p : Port) (n : NoticeReq) (more : List NoticeReq) (y : State) :
    let dropped := (y.hold.slots.filter fun h => h.origin = p ∧ h.state.isHeld = true).map
      (holdNoticed .holdDropped)
    ∃ order : List NoticeReq, order.Perm (n :: (dropped ++ more)) ∧ dropped.Sublist order ∧
      clearAllMarks (raiseTogether [[n], more, (holdPortDown p y).2] (holdPortDown p y).1) =
        unmarked { y with
          hold := { y.hold with slots := y.hold.slots.filter fun h => h.origin ≠ p }
          notices := order.foldl (fun n r => n.take y.timebase r) y.notices
          events := y.events + 1 } := by
  obtain ⟨ds, cleared, held⟩ := holdPortDown_eq p y
  rw [held]
  obtain ⟨order, perm, kept, raised⟩ := raiseTogether_eq
    [[n], more, (y.hold.slots.filter fun h => h.origin = p ∧ h.state.isHeld = true).map
      (holdNoticed .holdDropped)]
    { y with
      hold := { y.hold with slots := y.hold.slots.filter fun h => h.origin ≠ p }
      dispatchers := ds }
  refine ⟨order, perm.trans ?_, kept _ (by simp), ?_⟩
  · simpa using List.perm_append_comm
  · rw [raised]
    unfold clearAllMarks unmarked
    rw [cleared]
    rfl

/-- A drain that a port-down ends raises one COMMIT_DONE, whichever report ended it. -/
theorem portDownEndings_eq (p : Port) (s : State) (tracker : Tracker) (removed : List TrackEntry) :
    let back := afterHandBack p s
    let commit := drainAfterPortDown { s with tracker := tracker, commit := back.2 } removed
    ((if s.commit.state = .draining ∧ back.2.state = .idle then [commitDoneFor back.2] else []) ++
      if back.2.state = .draining ∧ commit.state = .idle then [commitDoneFor commit] else []) =
    if s.commit.state = .draining ∧ commit.state = .idle then [commitDoneFor commit] else [] := by
  dsimp only
  have notDraining : s.commit.state ≠ .draining → (afterHandBack p s).2 = s.commit := by
    intro h
    unfold afterHandBack
    split
    · rfl
    · unfold drainAfter; simp [h]
  have stopsThere : (afterHandBack p s).2.state = .idle →
      drainAfterPortDown { s with tracker := tracker, commit := (afterHandBack p s).2 } removed =
        (afterHandBack p s).2 := by
    intro h; unfold drainAfterPortDown; simp [h]
  by_cases draining : s.commit.state = .draining
  · cases back : (afterHandBack p s).2.state with
    | idle => rw [stopsThere back]; simp [draining, back]
    | draining => simp [draining]
  · rw [notDraining draining]; simp [draining]

/-- A port-down as a whole. -/
theorem portDown_wentDown (p : Port) (s : State) : WentDown p s (portDown p s) := by
  have whole : portDown p s =
      let r := releasePortDown p (portDownBegun p s)
      let t := trackerPortDown p r.1
      let h := holdPortDown p t.1
      clearAllMarks (raiseTogether [[linkNotice p .faulted 3 s], r.2 ++ t.2, h.2] h.1) := rfl
  rw [whole, releasePortDown_eq]
  unfold WentDown
  have endings := portDownEndings_eq p s
  generalize afterHandBack p s = back at endings ⊢
  generalize hu : ({ portDownBegun p s with tracker := back.1, commit := back.2 } : State) = u
  have form : (match releaseStopped p s with
      | none => u
      | some r => releaseEnded (r.delivers && decide (p ≠ Port.u)) ⟨.originDown, 0⟩ u) = { u with
        hold := { u.hold with
          release := if (releaseStopped p s).isSome then none else u.hold.release }
        mgmt := match releaseStopped p s with
          | none => u.mgmt
          | some r =>
            (resultDelivered (r.delivers && decide (p ≠ Port.u)) ⟨.originDown, 0⟩ u).mgmt } := by
    cases releaseStopped p s with
    | none => rfl
    | some r => exact releaseEnded_eq _ _ _
  have same : u.events = s.events ∧ u.steering = s.steering ∧ u.timebase = s.timebase := by
    rw [← hu]; cases p <;> exact ⟨rfl, rfl, rfl⟩
  have settled := trackerPortDown_eq p s { u with
      hold := { u.hold with
        release := if (releaseStopped p s).isSome then none else u.hold.release }
      mgmt := match releaseStopped p s with
        | none => u.mgmt
        | some r => (resultDelivered (r.delivers && decide (p ≠ Port.u)) ⟨.originDown, 0⟩ u).mgmt }
    same.1 same.2.1 same.2.2 fun q hq => by
      rw [← hu]
      cases p <;> cases q <;> first | exact absurd rfl hq | rfl
  rw [form]
  dsimp only at settled ⊢
  rw [settled]
  dsimp only
  obtain ⟨order, perm, kept, ended⟩ := portDownEnded_eq p (linkNotice p .faulted 3 s)
    _ _
  refine ⟨order, ?_, ?_, ended.trans ?_⟩
  · refine perm.trans (List.Perm.of_eq ?_)
    subst hu
    cases p <;> exact congrArg (fun l => _ :: (_ ++ l)) (endings _ _)
  · subst hu; cases p <;> exact kept
  · have both : ∀ (x : State) (h h' : HoldQueue) (m m' : Management), h = h' → m = m' →
        unmarked { x with hold := h, mgmt := m } = unmarked { x with hold := h', mgmt := m' } := by
      rintro x h h' m m' rfl rfl; rfl
    have release := portDownBegun_release p s
    subst hu
    cases p with
    | u =>
      refine both { s with
        ports := _, dispatchers := _, tracker := _, commit := _, notices := _, events := _ } _ _ _ _ ?_ ?_
      · simp only [release]; rfl
      · cases releaseStopped .u s with
        | none => rfl
        | some r => simp [resultDelivered]; rfl
    | d =>
      refine both { s with
        ports := _, dispatchers := _, tracker := _, commit := _, notices := _, events := _ } _ _ _ _ ?_ ?_
      · simp only [release]; rfl
      · cases releaseStopped .d s with
        | none => rfl
        | some r =>
          simp only [ne_eq, reduceCtorEq, not_false_eq_true, decide_true, Bool.and_true]
          exact resultDelivered_mgmt _ _ rfl

/-- What a failed training attempt comes to. -/
theorem failAttempt_failed (p : Port) (a : Attempt) (s : State) :
    AttemptFailed p a.mode s (failAttempt p a s) := by
  unfold AttemptFailed failAttempt
  refine ⟨fun h => ?_, fun h => ⟨fun state => ?_, fun state => ?_⟩⟩
  · exact if_pos (by change (s.ports.get p).attempts + 1 < 3; omega)
  all_goals
    change (s.port p).attempts = 2 at h
    change (s.port p).state = _ at state
    simp only [h, Nat.lt_irrefl, Nat.reduceAdd, if_false, enterFaulted, state]
  · rfl
  · exact portDown_wentDown p s

end Sys2Proof
end

