-- ==== Sys2Proof/Laws/Operands.lean ====
section
/-! SUPPORT. Command blocks and entry images in the words of Safety: which bytes each reader takes and which
it refuses. -/

namespace Sys2Proof

open Machine

/-! ### Command blocks -/

theorem ofByte_iff (b : Byte) (code : CommandCode) :
    CommandCode.ofByte b = some code ↔ b.toNat = commandNumber code := by
  unfold CommandCode.ofByte
  rw [List.getElem?_eq_some_iff]
  constructor
  · rintro ⟨h, e⟩
    have : b.toNat < 17 := by simpa using h
    generalize b.toNat = n at *
    interval_cases n <;> simp at e <;> subst e <;> rfl
  · intro h
    rw [h] at *
    cases code <;> simp [commandNumber]

theorem lengthAllowed_iff (code : CommandCode) (n : Nat) :
    LengthAllowed code n ↔ code.bodyLength.getD n = n := by
  cases code <;> simp [CommandCode.bodyLength, LengthAllowed, eq_comm]

theorem blockOf_iff (bytes : List Byte) (code : CommandCode) (body : List Byte) :
    BlockOf bytes code body ↔ parseBlock bytes = some (code, body) := by
  match bytes with
  | [] | [_] | [_, _] | [_, _, _] => simp [parseBlock, BlockOf]
  | c :: flags :: l0 :: l1 :: rest =>
    have length : field (c :: flags :: l0 :: l1 :: rest) 2 2 = l0.toNat + 256 * l1.toNat := by
      simp [field, ofLE]
    unfold parseBlock BlockOf
    rw [if_neg (by simp)]
    simp only [length, byteAt, List.getD_cons_zero, List.getD_cons_succ, List.drop_succ_cons,
      List.drop_zero]
    constructor
    · rintro ⟨_, _, _, _, same, number, none, fits, allowed⟩
      simp only [List.cons.injEq] at same
      obtain ⟨rfl, rfl, rfl, rfl, rfl⟩ := same
      rw [(ofByte_iff _ _).2 number]
      exact if_pos ⟨none, fits, (lengthAllowed_iff _ _).1 allowed⟩
    · intro h
      cases read : CommandCode.ofByte c with
      | none => rw [read] at h; cases h
      | some k =>
        rw [read] at h
        dsimp only at h
        split at h
        · next fits =>
          cases h
          exact ⟨c, flags, l0, l1, rfl, (ofByte_iff _ _).1 read, fits.1, fits.2.1,
            (lengthAllowed_iff _ _).2 fits.2.2⟩
        · cases h

theorem no_blockOf_iff (bytes : List Byte) :
    (∀ code body, ¬BlockOf bytes code body) ↔ parseBlock bytes = none := by
  simp only [blockOf_iff]
  rcases parseBlock bytes with _ | ⟨code, body⟩ <;> simp

/-! ### Entry images -/

theorem arrivalCode_iff (b : Byte) (a : Arrival) : ArrivalCode b a ↔ arrivalOf b = some a := by
  unfold ArrivalCode arrivalOf; cases a <;> split_ifs <;> simp_all

theorem kindsCode_iff (b : Byte) (k : Kinds) : KindsCode b k ↔ kindsOf b = some k := by
  unfold KindsCode kindsOf; cases k <;> split_ifs <;> simp_all

theorem actionCode_iff (b : Byte) (a : Action) : ActionCode b a ↔ actionOf b = some a := by
  unfold ActionCode actionOf; cases a <;> split_ifs <;> simp_all

theorem presenceAllowed_iff (img : List Byte) : PresenceAllowed img ↔ presenceBad img = false := by
  simp [PresenceAllowed, presenceBad]

theorem entryOfImage_some {img : List Byte} {arrival : Arrival} {kinds : Kinds} {action : Action}
    (ha : ArrivalCode (byteAt img 2) arrival) (hk : KindsCode (byteAt img 3) kinds)
    (hc : ActionCode (byteAt img 14) action) (hp : PresenceAllowed img) :
    entryOfImage img = some (imageEntry img arrival kinds action) := by
  unfold entryOfImage
  rw [(arrivalCode_iff _ _).1 ha, (kindsCode_iff _ _).1 hk, (actionCode_iff _ _).1 hc]
  exact if_neg (by rw [(presenceAllowed_iff _).1 hp]; decide)

theorem entryOfImage_none {img : List Byte} (h : (∀ a, ¬ArrivalCode (byteAt img 2) a) ∨
    (∀ k, ¬KindsCode (byteAt img 3) k) ∨ (∀ a, ¬ActionCode (byteAt img 14) a) ∨
    ¬PresenceAllowed img) : entryOfImage img = none := by
  simp only [arrivalCode_iff, kindsCode_iff, actionCode_iff, presenceAllowed_iff] at h
  unfold entryOfImage
  cases ha : arrivalOf (byteAt img 2) <;> cases hk : kindsOf (byteAt img 3) <;>
    cases hc : actionOf (byteAt img 14) <;> simp_all

theorem field_lt (bytes : List Byte) (o n : Nat) : field bytes o n < 256 ^ n := by
  have bound : ∀ l : List Byte, ofLE l < 256 ^ l.length := by
    intro l
    induction l with
    | nil => simp [ofLE]
    | cons b l ih => simp only [ofLE, List.length_cons, Nat.pow_succ]; have := b.isLt; omega
  exact (bound _).trans_le (Nat.pow_le_pow_right (by decide) (by simp))

/-- Three readings and what follows them fail where one of them does. -/
theorem bind_none {α β γ δ : Type} {x : Option α} {y : Option β} {z : Option γ}
    {f : α → β → γ → Option δ} {rest : Prop} (h : ∀ a b c, f a b c = none ↔ rest) :
    (do let a ← x; let b ← y; let c ← z; f a b c) = none ↔
      x = none ∨ y = none ∨ z = none ∨ rest := by
  cases x <;> cases y <;> cases z <;> simp [h]

theorem selected_none {α : Type} (sel : BitVec 16) (bit : Nat) (v : Option α) :
    selected sel bit v = none ↔ sel.getLsbD bit = true ∧ v = none := by
  unfold selected; split <;> simp_all

theorem inRange_none {α : Type} (ok : α → Bool) (a : α) : inRange ok a = none ↔ ok a = false := by
  unfold inRange; split <;> simp_all

theorem absentOrInRange_none {α : Type} (ok : α → Bool) (b : Bool) (a : α) :
    absentOrInRange ok (if b then some a else none) = none ↔ b = true ∧ ok a = false := by
  unfold absentOrInRange; cases b <;> simp

/-- Check 1 of MODIFY. -/
theorem selectionAllowed_iff (sel : BitVec 16) (img : List Byte) :
    ¬SelectionAllowed sel img ↔ editOfImage sel img = none := by
  have sources := field_lt img 4 4
  have base := field_lt img 8 6
  have translated := field_lt img 26 6
  have timeout := field_lt img 32 4
  have limit := field_lt img 36 4
  have modSources : field img 4 4 % 2 ^ 32 = field img 4 4 := by omega
  have modBase : field img 8 6 % 2 ^ 48 = field img 8 6 := by omega
  have modTranslated : field img 26 6 % 2 ^ 48 = field img 26 6 := by omega
  have modTimeout : field img 32 4 % 2 ^ 32 = field img 32 4 := by omega
  have modLimit : field img 36 4 % 2 ^ 32 = field img 36 4 := by omega
  have named : ∀ {α : Type} (o : Option α), (∃ a, o = some a) ↔ o ≠ none := by
    intro α o; cases o <;> simp
  unfold SelectionAllowed editOfImage
  simp only [arrivalCode_iff, kindsCode_iff, actionCode_iff, named, presenceAllowed_iff]
  split
  · next h =>
    simp only [iff_true]
    rintro ⟨low, high, bits, -⟩
    rcases h with h | h | h
    · omega
    · omega
    · rw [bits] at h; cases h
  · next h =>
    simp only [not_or, Bool.not_eq_true] at h
    have low : 0 < sel.toNat := by omega
    have high : sel.toNat < 2 ^ 12 := by omega
    refine Iff.trans ?_ (bind_none fun _ _ _ => bind_none fun _ _ _ => bind_none fun _ _ _ =>
      bind_none (rest := False) fun _ _ _ => by simp).symm
    simp only [selected_none, inRange_none, imageTranslated, imageReplyTimeout, imageHoldLimit,
      absentOrInRange_none, low, high, h, imageSources, imageBase, imageSize, onGranule,
      replyTimeoutInRange, holdLimitInRange, BitVec.toNat_ofNat, ← BitVec.toNat_inj, modSources,
      modBase, modTranslated, modTimeout, modLimit, Bool.and_eq_false_iff, decide_eq_false_iff_not,
      reduceCtorEq, and_false, false_or, or_false, ne_eq, true_and]
    rw [show (0 : UnitSet).toNat = 0 from rfl]
    simp only [not_and_or, Classical.not_imp, not_not]

end Sys2Proof
end

