-- ==== Sys2Proof/Laws/Steering.lean ====
section
/-! SUPPORT. The Steering Engine in the words of Safety: the validation of an entry, the tests of the lookup,
and the walk past entries that do not decide. -/

namespace Sys2Proof

open Machine

theorem mem_egressPorts_iff (e : Entry) (p : Port) : p ∈ e.egressPorts ↔ LeavesBy e p := by
  unfold Entry.egressPorts LeavesBy
  cases e.action <;> cases e.arrival <;> cases p <;> simp [onlyOn, otherPort]

theorem steers_iff (a : Action) : a.steers = true ↔ a = .forward ∨ a = .reflect := by
  cases a <;> simp [Action.steers]

theorem windowValid_iff (base : Addr) (size : Nat) :
    windowValid base size = true ↔ base.toNat % 0x1000 = 0 ∧ size % 0x1000 = 0 ∧ 0x1000 ≤ size ∧
      base.toNat + size ≤ 2 ^ 48 := by
  simp [windowValid, onGranule, and_assoc]

theorem validEntry_iff (units : Duo UnitNo) (e : Entry) :
    ValidEntry units e ↔ e.valid units = true := by
  have presence : ∀ b : Bool, (b = true ↔ e.action = .forward ∨ e.action = .reflect) ↔
      b = e.action.steers := by
    intro b; rw [← steers_iff]; cases b <;> cases e.action.steers <;> simp
  have target : (∀ unit p, e.target = some unit → LeavesBy e p → unit ≠ units.get p) ↔
      (match e.target with
        | none => true
        | some t => e.egressPorts.all fun p => t ≠ units.get p) = true := by
    cases e.target with
    | none => simp
    | some t =>
      simp only [Option.some.injEq, List.all_eq_true, decide_eq_true_eq]
      constructor
      · intro h p hp; exact h t p rfl ((mem_egressPorts_iff _ _).1 hp)
      · rintro h u p rfl hp; exact h p ((mem_egressPorts_iff _ _).2 hp)
  have translated : (∀ a, e.translated = some a →
      a.toNat % 0x1000 = 0 ∧ a.toNat + e.size ≤ 2 ^ 48) ↔
      (match e.translated with
        | none => true
        | some t => onGranule t && decide (t.toNat + e.size ≤ 2 ^ 48)) = true := by
    cases e.translated <;> simp [onGranule]
  have timeout : (∀ t, e.replyTimeout = some t → (e.action = .forward ∨ e.action = .reflect) ∧
      100 ≤ t.toNat ∧ t.toNat ≤ 2000000) ↔
      (match e.replyTimeout with
        | none => true
        | some t => e.action.steers && replyTimeoutInRange t) = true := by
    cases e.replyTimeout <;> simp [replyTimeoutInRange, ← steers_iff]
  have limit : (∀ t, e.holdLimit = some t → e.action = .hold ∧ 10 ≤ t.toNat ∧ t.toNat ≤ 1000000) ↔
      (match e.holdLimit with
        | none => true
        | some t => decide (e.action = .hold) && holdLimitInRange t) = true := by
    cases e.holdLimit <;> simp [holdLimitInRange]
  unfold ValidEntry Entry.valid
  simp only [Bool.and_eq_true, Bool.or_eq_true, decide_eq_true_eq]
  rw [← windowValid_iff, presence, presence, target, translated, timeout, limit,
    ← or_iff_not_imp_left]
  tauto

theorem pinnedLabel_iff (label : Label) (s : State) :
    PinnedLabel label s ↔ s.steering.pinnedLabel label = true := by
  unfold PinnedLabel Steering.pinnedLabel; simp

theorem candidate_iff (release : Bool) (r : Request) (e : Entry) :
    Candidate release r e ↔ e.candidate release r = true := by
  have names : e.arrival.names r.port = true ↔ (e.arrival = .both ∨ e.arrival = onlyOn r.port) := by
    cases e.arrival <;> cases r.port <;> simp [Arrival.names, onlyOn]
  have covers : e.kinds.covers r.kind = true ↔
      (r.kind = .read ∧ (e.kinds = .reads ∨ e.kinds = .all) ∨
        (r.kind = .write ∨ r.kind = .writeAck) ∧ (e.kinds = .writes ∨ e.kinds = .all)) := by
    cases e.kinds <;> cases r.kind <;> simp [Kinds.covers]
  unfold Candidate Entry.candidate
  simp only [Bool.and_eq_true, Bool.not_eq_true']
  rw [names, covers]
  unfold UnitSet.holds
  cases release <;> simp [and_assoc]

theorem contained_iff (r : Request) (e : Entry) : Contained r e ↔ e.containsRange r = true := by
  unfold Contained Entry.containsRange Request.last Entry.last; simp

theorem overlaps_iff (r : Request) (e : Entry) : Overlaps r e ↔ e.overlapsRange r = true := by
  unfold Overlaps Entry.overlapsRange Request.last Entry.last; simp

/-- The walk goes on past entries that do not decide. -/
theorem walk_append (release : Bool) (r : Request) (l rest : List ActiveEntry)
    (h : ∀ b ∈ l, PassedOver release r b.entry) :
    walk release r (l ++ rest) = walk release r rest := by
  induction l with
  | nil => rfl
  | cons b l ih =>
    have hb := h b (by simp)
    have hl := ih fun x hx => h x (by simp [hx])
    simp only [List.cons_append, walk]; rw [hl]
    unfold PassedOver at hb
    rw [candidate_iff, contained_iff, overlaps_iff] at hb
    split_ifs <;> simp_all

/-- The entry a walk finds is a candidate. -/
theorem walk_candidate {release : Bool} {r : Request} {l : List ActiveEntry} {a : ActiveEntry}
    {b : Bool} (h : walk release r l = some (a, b)) : a.entry.candidate release r = true := by
  induction l with
  | nil => cases h
  | cons x l ih =>
    unfold walk at h
    split_ifs at h with hc
    · cases h; exact hc
    · cases h; exact hc
    · exact ih h
    · exact ih h

end Sys2Proof
end

