-- ==== Sys2Proof/Laws/Wire.lean ====
section
/-! SUPPORT. The byte formats: lengths, a field read back from the bytes written for it, and a sealed packet
read from the wire. -/

namespace Sys2Proof.Machine

@[simp] theorem toLE_length (n v : Nat) : (toLE n v).length = n := by
  induction n generalizing v with
  | zero => rfl
  | succ n ih => simp [toLE, ih]

theorem ofLE_toLE (n v : Nat) : ofLE (toLE n v) = v % 256 ^ n := by
  induction n generalizing v with
  | zero => simp [toLE, ofLE]; omega
  | succ n ih =>
    have split256 := Nat.mod_mul (a := 256) (b := 256 ^ n) (x := v)
    simp only [toLE, ofLE, ih, BitVec.toNat_ofNat, Nat.pow_succ]
    rw [Nat.mul_comm (256 ^ n) 256, split256]

/-- A field reads back as the number written at its offset. -/
theorem field_of_toLE {bytes pre post : List Byte} {v o n : Nat}
    (split : bytes = pre ++ (toLE n v ++ post)) (offset : pre.length = o) (fits : v < 256 ^ n) :
    field bytes o n = v := by
  have taken : ((toLE n v ++ post).take n) = toLE n v := by
    simp
  subst offset
  rw [split, field, List.drop_left, taken, ofLE_toLE, Nat.mod_eq_of_lt fits]

theorem padTo_length (n : Nat) (l : List Byte) (h : l.length ≤ n) : (padTo n l).length = n := by
  unfold padTo; simp; omega

@[simp] theorem entryImage_length (e : Entry) : (entryImage e).length = 40 := by simp [entryImage]

@[simp] theorem activeRecord_length (a : ActiveEntry) : (activeRecord a).length = 64 :=
  padTo_length _ _ (by simp)

@[simp] theorem stagingRecord_length (e : Entry) : (stagingRecord e).length = 64 :=
  padTo_length _ _ (by simp)

@[simp] theorem holdRecord_length (h : HoldSlot) : (holdRecord h).length = 64 :=
  padTo_length _ _ (by simp; omega)

/-- Sealed bytes that fill their frame are read, whatever the check code of those bytes is. -/
theorem readWire_sealed (body : List Byte) (h : frameLength body = some body.length) :
    readWire (sealed body) = readBody body := by
  have len : (body ++ toLE 4 (Config.checkCode body).toNat).length - 4 = body.length := by simp
  have check : (body ++ toLE 4 (Config.checkCode body).toNat).drop body.length =
      toLE 4 (Config.checkCode body).toNat := List.drop_left
  unfold readWire sealed
  simp only [len, List.take_left]
  rw [if_pos ⟨h, check⟩]

/-- The kinds of Table 9-1 read back from their codes, and none is a link-control kind. -/
theorem packetKind_code (k : PacketKind) (h : ∀ c, k ≠ .other c) :
    packetKind k.code = k ∧ k.code ≠ 0x10 ∧ k.code ≠ 0x11 ∧ k.code ≠ 0x12 := by
  cases k <;> first | exact absurd rfl (h _) | decide

theorem seqNo_of_toLE (s : SeqNo) : BitVec.ofNat 12 (ofLE (toLE 2 s.toNat)) = s := by
  rw [ofLE_toLE, Nat.mod_eq_of_lt (by have := s.isLt; omega)]; simp

end Sys2Proof.Machine
end

