-- ==== Sys2Proof/WellFormed.lean ====
section
/-! DEFINITION. Which commands are well formed: an arriving packet's bytes open with a kind that the command
is about (Table 11-3), a tag, hold id or member count lies in its range. -/

namespace Sys2Proof

/-- Whether the bytes open with the kind byte and phase byte of a TRAIN of the given phase. -/
def opensTrain (phase : Byte) (wire : List Byte) : Bool :=
  wire.take 2 = [0x10, phase]

/-- Whether the bytes open with a kind byte. -/
def opensWith (kind : Byte) (wire : List Byte) : Bool :=
  wire.take 1 = [kind]

/-- Whether the bytes open with a kind byte that is not a link-control packet's: such a packet is taken on
the P, N or C channel (R140). -/
def opensTraffic (wire : List Byte) : Bool :=
  wire ≠ [] && !opensWith 0x10 wire && !opensWith 0x11 wire && !opensWith 0x12 wire

/-- Whether a command is well formed. -/
def wellFormed : Instr → Bool
  | .coldReset _ => true
  | .referenceClockStable _ => true
  | .sendTrain _ => true
  | .speedReceived _ wire => opensTrain 1 wire
  | .identReceived _ wire => opensTrain 2 wire
  | .readyReceived _ wire => opensTrain 3 wire || opensTraffic wire || opensWith 0x11 wire
  | .attemptDeadlineExpiry _ => true
  | .holdOffExpiry => true
  | .receivePacket _ wire => opensTraffic wire
  | .ackReceived _ wire => opensWith 0x11 wire
  | .replayReqReceived _ wire => opensWith 0x12 wire
  | .ackDeadlineExpiry _ => true
  | .sendAck _ => true
  | .sendReplayReq _ => true
  | .replayResend _ => true
  | .transmitPacket _ => true
  | .dispatch _ => true
  | .holdOffer _ => true
  | .pTransmitOffer _ => true
  | .tagAllocation _ => true
  | .nTransmitPlacement _ => true
  | .hitCountReport _ => true
  | .replyPresentation _ => true
  | .replyTake _ => true
  | .entryExpiry tag => tag.toNat ≤ 125
  | .drainFenceExpiry _ => true
  | .orphanedExpiry tag => tag.toNat ≤ 125
  | .closingReplyPlacement _ => true
  | .coolingExpiry _ => true
  | .holdExpiry id => id ≠ 0
  | .holdAnswerPlacement _ => true
  | .nop => true
  | .insert => true
  | .remove => true
  | .modify => true
  | .move => true
  | .clearStaging => true
  | .commit => true
  | .forceDrain => true
  | .release => true
  | .releaseWaitEnd => true
  | .releaseSteps => true
  | .discard => true
  | .setParam => true
  | .setAperture => true
  | .setManagers => true
  | .lockManagers => true
  | .linkRestart => true
  | .warmReset => true
  | .batch members => 1 ≤ members
  | .malformedCommandBlock => true
  | .unsupportedApertureAccess => true
  | .notManagerRefusal => true
  | .noticePop => true
  | .commandReplyPlacement => true
  | .noticeEmission => true

end Sys2Proof
end

