-- ==== Sys2Proof/Tests/Slice0.lean ====
section
/-! SUPPORT. Tests of the model. Expected results come from the tables and the worked examples of spec/, each
named in the test's comment. The theorems named test_met_… show, for the statement of that name, concrete
states and operands that meet the hypotheses of each of its clauses. -/

namespace Sys2Proof.Tests

open Machine

set_option Elab.async false

/-! ### States and packets the tests use -/

/-- A port as training in NEW mode leaves it: unit 9 at the partner, full credit. -/
def linkUp : LinkPort :=
  { LinkPort.cold with
    state := .up, negotiated := some ⟨.x4, .g20⟩, partnerUnit := some 9, acked := some 4095
    credit := ⟨16, 16, 32⟩ }

/-- Both ports UP, and nothing else done since cold reset. -/
def bothUp : State := { State.reset with ports := ⟨linkUp, linkUp⟩ }

def readReq : Packet := ⟨.read, 3, 31, 5, 64, 0, 0x1000, []⟩
def writeReq : Packet := ⟨.write, 3, 31, 0, 4, 0, 0x1000, [1, 2, 3, 4]⟩
def fenceReq : Packet := ⟨.fence, 3, 31, 5, 0, 0, 0, []⟩

/-- A packet stands alone in an ingress queue of a port. -/
def arrived (p : Port) (ch : Chan) (pkt : Packet) (s : State) : State :=
  withPort p { s.port p with
    ingress := (s.port p).ingress.set ch [⟨pkt, 0, false⟩], nextArrival := 1 } s

/-- A dispatcher has work in progress on a packet that stands alone in an ingress queue. -/
def working (p : Port) (ch : Chan) (pkt : Packet) (w : Work) (s : State) : State :=
  dispatchGoesOn p w (arrived p ch pkt s)

/-- A transmit queue of a port is full. -/
def filled (p : Port) (ch : Chan) (s : State) : State :=
  withPort p { s.port p with
    transmit := (s.port p).transmit.set ch (List.replicate ch.capacity ⟨writeReq, 0⟩)
    nextStamp := 1 } s

/-- A transmit queue of a port has one slot left. -/
def nearlyFilled (p : Port) (ch : Chan) (s : State) : State :=
  withPort p { s.port p with
    transmit := (s.port p).transmit.set ch (List.replicate (ch.capacity - 1) ⟨writeReq, 0⟩)
    nextStamp := 1 } s

/-- A port is in a link state. -/
def linkIs (p : Port) (st : LinkState) (s : State) : State :=
  withPort p { s.port p with state := st } s

/-- An attempt of a port at time 0. -/
def attempt (mode : Mode) (phase : Phase) : Attempt :=
  { phase := phase, deadline := 2000, mode := mode, offer := ⟨.x4, .g20⟩, partner := none
    agreed := none, unit := 31, identSent := false, identTaken := false }

/-- A port is in an attempt. -/
def attempting (p : Port) (st : LinkState) (a : Attempt) (count : Nat) (s : State) : State :=
  withPort p { s.port p with state := st, attempt := some a, attempts := count } s

/-- A steering entry for reads and writes on port U, forwarded to unit 4 of port D. -/
def window : Entry :=
  { label := 7, arrival := .u, sources := 0xFFFFFFFF, kinds := .all, base := 0x1000, size := 0x1000
    action := .forward, target := some 4, translated := some 0x8000, replyTimeout := none
    holdLimit := none, notify := none, pinned := false }

/-- The same window with an action that names no target. -/
def windowTo (action : Action) : Entry :=
  { window with action := action, target := none, translated := none }

/-- Both lists hold the same entries, none counted. -/
def withEntries (es : List Entry) (s : State) : State :=
  { s with steering :=
    { s.steering with active := es.map fun e => ⟨e, 0, 0⟩, staging := es } }

/-- The decision that forwards the requests above under the window above. -/
def forwarded : Decision := ⟨.steer .forward .d 4 0x8000 20000, 7, 0⟩

/-- An AWAITING tracker entry of the READ above, under tag 5, out by port D. -/
def awaiting : TrackEntry :=
  { tag := 5, state := .awaiting, kind := .read, origin := some ⟨.u, 3, 5⟩, egress := .d, dest := 4
    address := 0x8000, expected := 64, label := 7, generation := 0, timeout := 20000
    dispatched := 0, deadline := 20000 }

/-- A drain fence entry of port U. -/
def fenceOfU : TrackEntry :=
  { awaiting with
    tag := 126, kind := .drainFence, origin := none, egress := .u, expected := 0, label := 0 }

/-- The tracker holds the entries given. -/
def tracked (es : List TrackEntry) (s : State) : State :=
  { s with tracker := { s.tracker with entries := es } }

/-- The bytes of a command block (R119). -/
def block (code : Byte) (body : List Byte) : List Byte :=
  [code, 0] ++ toLE 2 body.length ++ body

/-- A command write from unit 3 with tag 9. -/
def commandSlot (bytes : List Byte) : CommandSlot :=
  ⟨3, 9, .writeAck, 0xFFF000000000, 0, BitVec.ofNat 16 bytes.length, bytes, .waiting⟩

/-- The command queue holds the accesses given. -/
def queueing (slots : List CommandSlot) (s : State) : State :=
  { s with mgmt := { s.mgmt with queue := slots } }

/-- A command waits alone in the command queue. -/
def command (code : Byte) (body : List Byte) (s : State) : State :=
  queueing [commandSlot (block code body)] s

/-- The READ above, held since time 0 with hold id 1 and limit 1,000. -/
def heldRead : HoldSlot := ⟨1, .held 1000, .u, readReq, 7, 0, 0, 1000⟩

/-- The Hold Queue holds the slots given. -/
def holding (slots : List HoldSlot) (s : State) : State :=
  { s with hold := { s.hold with slots := slots, lastId := 1 } }

/-- The state a command leaves. -/
def after (c : Instr) (s : State) : State :=
  match exec c s with
  | .next t => t
  | _ => s

/-- The result code byte and failure index byte of the reply at the head of the command queue. -/
def resultOf (s : State) : Option (List Byte) :=
  match s.mgmt.queue.head? with
  | some ⟨_, _, _, _, _, _, _, .answerReady r⟩ => some (r.payload.take 2)
  | _ => none

/-- A release of the READ above in progress: its phase, whether its result reaches a command, and the
command queue. -/
def releaseIn (slots : List CommandSlot) (delivers : Bool) (phase : ReleasePhase) (s : State) : State :=
  { queueing slots s with
    hold := { slots := [heldRead], lastId := 1, release := some ⟨heldRead, none, phase, delivers⟩ } }

/-- The release of a single RELEASE. -/
def releaseIs (phase : ReleasePhase) (s : State) : State :=
  releaseIn [{ commandSlot (block 8 [1, 0]) with state := .executing }] true phase s

/-- A BATCH at its first member, a RELEASE, with members left to carry out. -/
def batchSlot (todo : List (CommandCode × List Byte)) : CommandSlot :=
  { commandSlot (block 8 [1, 0]) with state := .executingBatch ⟨todo, 1, ⟨.done, 0⟩⟩ }

/-- A head that is neither aborted nor malformed is taken, by checks that evaluate. -/
theorem takesRequest_of {p : Port} {ch : Chan} {slot : InSlot} {s : State} (channel : ch ≠ .c)
    (chosen : chosenHead p s = some ch) (head : ((s.ports.get p).ingress.get ch).head? = some slot)
    (intact : slot.aborted = false)
    (sound : malformation (s.mgmt.params.unit.get p) slot.packet = none) :
    TakesRequest p ch slot.packet s :=
  ⟨channel, by rw [malformed_iff, sound]; decide, slot, ⟨chosen, head⟩, rfl, intact⟩

/-! ### Well-formed commands: each check refuses an ill-formed term -/

theorem test_wf_speed_refused : wellFormed (.speedReceived .u [0x10, 2, 1, 4, 20]) = false := by decide
theorem test_wf_ident_refused : wellFormed (.identReceived .u [0x10, 1]) = false := by decide
theorem test_wf_ready_refused : wellFormed (.readyReceived .u [0x12, 0]) = false := by decide
theorem test_wf_ready_train_refused : wellFormed (.readyReceived .u [0x10, 2]) = false := by decide
theorem test_wf_packet_refused :
    wellFormed (.receivePacket .u []) = false ∧ wellFormed (.receivePacket .d [0x11, 0]) = false := by
  decide
theorem test_wf_ack_refused : wellFormed (.ackReceived .u [0x12, 0]) = false := by decide
theorem test_wf_replayReq_refused : wellFormed (.replayReqReceived .u [0x11, 0]) = false := by decide
theorem test_wf_entryExpiry_refused : wellFormed (.entryExpiry 126) = false := by decide
theorem test_wf_orphanedExpiry_refused : wellFormed (.orphanedExpiry 127) = false := by decide
theorem test_wf_holdExpiry_refused : wellFormed (.holdExpiry 0) = false := by decide
theorem test_wf_batch_refused : wellFormed (.batch 0) = false := by decide
theorem test_wf_accepts :
    wellFormed (.readyReceived .u [0x10, 3]) = true ∧ wellFormed (.receivePacket .u [3]) = true ∧
      wellFormed (.entryExpiry 125) = true ∧ wellFormed (.holdExpiry 1) = true := by decide

/-! ### Formats (spec/11_formats_reference.md) -/

/-- Table 11-6: the codes of the nine parameters, and the ranges of Table 6-5 at their ends. -/
theorem test_paramOf :
    paramOf [1, 0, 100, 0, 0, 0, 0, 0, 0, 0] = some (.replyTimeout 100) ∧
    paramOf [1, 0, 99, 0, 0, 0, 0, 0, 0, 0] = none ∧
    paramOf [1, 0, 0x80, 0x84, 0x1E, 0, 0, 0, 0, 0] = some (.replyTimeout 2000000) ∧
    paramOf [1, 0, 0x81, 0x84, 0x1E, 0, 0, 0, 0, 0] = none ∧
    paramOf [2, 0, 10, 0, 0, 0, 0, 0, 0, 0] = some (.holdLimit 10) ∧
    paramOf [2, 0, 9, 0, 0, 0, 0, 0, 0, 0] = none ∧
    paramOf [3, 0, 2, 6, 0, 0, 0, 0, 0, 0] = some (.default .u (.pass 6)) ∧
    paramOf [4, 0, 1, 0, 0, 0, 0, 0, 0, 0] = some (.default .d .refuse) ∧
    paramOf [4, 0, 3, 0, 0, 0, 0, 0, 0, 0] = none ∧
    paramOf [5, 0, 0x20, 0, 0x10, 0, 0, 0, 7, 1] = some (.noticeTarget ⟨0x100020, 7, true⟩) ∧
    paramOf [5, 0, 0x10, 0, 0x10, 0, 0, 0, 7, 1] = none ∧
    paramOf [6, 0, 30, 0, 0, 0, 0, 0, 0, 0] = some (.unit .u 30) ∧
    paramOf [7, 0, 1, 0, 0, 0, 0, 0, 0, 0] = some (.unit .d 1) ∧
    paramOf [8, 0, 2, 10, 0, 0, 0, 0, 0, 0] = some (.linkPref .u ⟨.x2, .g10⟩) ∧
    paramOf [9, 0, 3, 10, 0, 0, 0, 0, 0, 0] = none ∧
    paramOf [10, 0, 1, 0, 0, 0, 0, 0, 0, 0] = none := by decide +kernel

/-- Table 11-2: the bytes of the link-control packets before their check codes. -/
theorem test_linkControl_bytes :
    speedBytes .resume ⟨.x2, .g10⟩ = [0x10, 1, 2, 2, 10] ∧
    identBytes 31 ⟨16, 15, 32⟩ 4095 = [0x10, 2, 31, 16, 15, 32, 0xFF, 0x0F] ∧
    readyBytes = [0x10, 3] ∧
    ackBytes 0x102 ⟨1, 2, 3⟩ = [0x11, 0, 2, 1, 1, 2, 3] ∧
    replayReqBytes 5 = [0x12, 0, 5, 0] := by decide +kernel

/-- Table 11-1: a READ with sequence number 7 before its check code. -/
theorem test_packet_bytes :
    packetBytes ⟨.read, 3, 31, 5, 0x100, 0, 0x123456789ABC, []⟩ 7 =
      [3, 3, 31, 5, 0, 1, 0, 0, 7, 0, 0xBC, 0x9A, 0x78, 0x56, 0x34, 0x12] := by decide +kernel

/-- Section 1.9: the eight requests of the worked example and their decisions. -/
def exampleEntries : List Entry :=
  [{ window with
     label := 10, sources := 0x3, base := 0x40000000, size := 0x10000, target := some 3
     translated := some 0x80000000 },
   { windowTo .refuse with
     label := 20, arrival := .both, kinds := .writes, base := 0x40008000, notify := some true },
   { window with
     label := 30, arrival := .d, sources := 0x20, kinds := .reads, base := 0x20000000, size := 0x2000
     action := .reflect, target := some 6, translated := some 0x21000000 },
   { windowTo .hold with label := 40, sources := 0x4, base := 0x40000000, size := 0x40000000 }]

def example19 : State :=
  { withEntries exampleEntries bothUp with
    steering := { (withEntries exampleEntries bothUp).steering with
      generation := 7, defaults := ⟨.refuse, .pass 0⟩ } }

theorem test_lookup_example_match :
    example19.lookup false ⟨.u, 1, .read, 0x40008010, 64⟩ =
        ⟨.steer .forward .d 3 0x80008010 20000, 10, 7⟩ ∧
    example19.lookup false ⟨.u, 7, .write, 0x40008FF0, 16⟩ = ⟨.refuse true, 20, 7⟩ ∧
    example19.lookup false ⟨.u, 7, .writeAck, 0x40008FF0, 32⟩ = ⟨.boundary, 20, 7⟩ ∧
    example19.lookup false ⟨.d, 5, .read, 0x20001F80, 128⟩ =
        ⟨.steer .reflect .d 6 0x21001F80 20000, 30, 7⟩ := by decide +kernel

theorem test_lookup_example_rest :
    example19.lookup false ⟨.u, 2, .read, 0x4000FFC0, 128⟩ = ⟨.hold 1000, 40, 7⟩ ∧
    example19.lookup false ⟨.u, 0, .write, 0x4000FFC0, 128⟩ = ⟨.boundary, 10, 7⟩ ∧
    example19.lookup false ⟨.d, 9, .read, 0x30000000, 8⟩ =
        ⟨.steer .pass .u 0 0x30000000 20000, 0, 7⟩ ∧
    example19.lookup false ⟨.u, 4, .read, 0x90000000, 8⟩ = ⟨.defaultRefuse, 0, 7⟩ := by decide +kernel

/-! ### One step of each kind -/

/-- R108 and Section 6.8: straps that read 3 place the aperture at 0xFFF0_0003_0000. -/
theorem test_coldReset_strap :
    (after (.coldReset 3) bothUp).mgmt.apertureBase = 0xFFF000030000 ∧
      (after (.coldReset 3) bothUp).ports.u.state = .offline := by decide +kernel

/-- R169, R171: the first attempt of a port that leaves OFFLINE ends 2,000 µs later. -/
theorem test_clockStable :
    (after (.referenceClockStable .d) State.reset).ports.d.attempt.map (·.deadline) = some 2000 ∧
      (after (.referenceClockStable .d) State.reset).ports.u.state = .offline := by decide +kernel

/-- R142: an ACK that has been sent is owed no longer. -/
theorem test_sendAck :
    (after (.sendAck .u) (withPort .u { linkUp with ackOwed := true } bothUp)).ports.u.ackOwed =
      false := by decide +kernel

/-- Section 10.6, event 5: the third failure of a retraining port D leaves it FAULTED with count 3. -/
theorem test_portDown :
    let s := after (.attemptDeadlineExpiry .d)
      { attempting .d .retraining (attempt .resume .speed) 2 bothUp with timebase := 2000 }
    s.ports.d.state = .faulted ∧ s.ports.d.attempts = 3 ∧ s.ports.d.holdOff = none ∧
      (s.notices.queue.map fun n => (n.req.kind, n.req.detail, n.req.tag)) =
        [(.linkState, 5, 3)] := by decide +kernel

/-- Section 10.6: port U leaves FAULTED 10,000 µs after it entered it. -/
theorem test_holdOff :
    let s := withPort .u { linkUp with state := .faulted, holdOff := some 10000 } bothUp
    (after .holdOffExpiry { s with timebase := 9999 }).ports.u.state = .faulted ∧
      (after .holdOffExpiry { s with timebase := 10000 }).ports.u.state = .training := by
  decide +kernel

/-- R176: a packet that is sent takes the next sequence number, which wraps from 4095 to 0. -/
theorem test_transmit :
    let s := withPort .u { linkUp with txNext := 4095, transmit := ⟨[], [⟨readReq, 0⟩], []⟩ } bothUp
    (after (.transmitPacket .u) s).ports.u.txNext = 0 ∧
      (after (.transmitPacket .u) s).ports.u.replayStore = [⟨4095, readReq⟩] ∧
      (after (.transmitPacket .u) s).ports.u.ackDeadline = some 1000 := by decide +kernel

/-- R177: each of two packets that fail their tests before an opportunity makes a REPLAY_REQ due, and one
opportunity sends the first. -/
theorem test_replayReq_each :
    let s := after (.receivePacket .u [1]) (after (.receivePacket .u [1]) bothUp)
    s.ports.u.replayReqs = [4095, 4095] ∧ s.ports.u.rxMode = .awaitingReplay ∧
      (after (.sendReplayReq .u) s).ports.u.replayReqs = [4095] := by decide +kernel

/-- R79: at a port-down of D a release in steps from it hands its tag back to the head of the pool, and ends
ORIGIN_DOWN. -/
theorem test_portDown_release :
    let held := { heldRead with origin := .d }
    let entry := { awaiting with origin := some ⟨.d, 3, 5⟩, egress := .u }
    let start := releaseIs .waiting (tracked [entry] bothUp)
    let s := (releasePortDown .d { start with
      hold := ⟨[held], 1, some ⟨held, none, .place forwarded entry, true⟩⟩ }).1
    s.tracker.entries = [] ∧ s.tracker.free.head? = some 5 ∧ s.tracker.cooling = [] ∧
      s.hold.release = none ∧ resultOf s = some [ResultCode.originDown.code, 1] := by decide +kernel

/-- R121, R79: the result of a RELEASE member goes to its batch, and a release cut off from its command
gives none. -/
theorem test_release_result :
    let ends := fun slots delivers => after .releaseSteps
      (releaseIn slots delivers .lookup (withEntries [windowTo .refuse] bothUp))
    resultOf (ends [batchSlot []] true) = some [0, 0] ∧
    ((ends [batchSlot [(.nop, [])]] true).mgmt.queue.map (·.state)) =
      [.executingBatch ⟨[(.nop, [])], 2, ⟨.done, 2⟩⟩] ∧
    (ends [] false).mgmt.queue = [] ∧ (ends [] false).hold.release = none := by decide +kernel

/-- R31: a READ of length 0 is answered UNSUPPORTED. -/
theorem test_dispatch_malformed :
    ((after (.dispatch .u) (arrived .u .n { readReq with length := 0 } bothUp)).ports.u.transmit.c.map
      (·.packet.status)) = [7] := by decide +kernel

/-- R16: under the default action REFUSE a posted write is discarded, with a REFUSED notice of detail
DEFAULT. -/
theorem test_dispatch_default :
    let s := after (.dispatch .u) (arrived .u .p writeReq bothUp)
    s.ports.u.ingress.p = [] ∧ s.ports.u.ackOwed = true ∧
      (s.notices.queue.map fun n => (n.req.kind, n.req.detail, n.req.label)) = [(.refused, 2, 0)] := by
  decide +kernel

/-- Table 2-2: a steered posted write leaves with the part's unit, the target unit, tag 0 and the steered
address. -/
theorem test_pOffer :
    ((after (.pTransmitOffer (.dispatcher .u)) (working .u .p writeReq (.pOffer forwarded)
      bothUp)).ports.d.transmit.p.map (·.packet)) = [⟨.write, 31, 4, 0, 4, 0, 0x8000, [1, 2, 3, 4]⟩] := by
  decide +kernel

/-- Section 3.8, event 1: the allocation takes the head of the pool, and the deadline is the dispatch time
plus REPLY_TIMEOUT. -/
theorem test_allocation :
    let s := after (.tagAllocation (.dispatcher .u))
      { working .u .n readReq (.allocate forwarded) bothUp with timebase := 1000 }
    (s.tracker.entries.map fun e => (e.tag, e.deadline, e.expected)) = [(0, 21000, 64)] ∧
      s.tracker.free.head? = some 1 := by decide +kernel

/-- Section 3.8, event 6: with the pool empty the head waits with a wait mark for a tag. -/
theorem test_allocation_empty :
    let s := { working .u .n readReq (.allocate forwarded) bothUp with tracker := ⟨[], [], []⟩ }
    (after (.tagAllocation (.dispatcher .u)) s).dispatchers.u.marks.n = [.tag] := by decide +kernel

/-- R38, R72: a held request takes hold id 1 after the last id 255. -/
theorem test_holdOffer :
    let s := working .u .n readReq (.holdOffer .n ⟨.hold 1000, 7, 0⟩)
      { bothUp with hold := { bothUp.hold with lastId := 255 } }
    (after (.holdOffer .u) s).hold.slots = [heldRead] := by decide +kernel

/-- Section 1.10: the report of label 10 under generation 7 is counted at generation 8, and the report of
label 20, whose count origin is 8, is dropped. -/
theorem test_hitCount :
    let st : Steering := { Steering.cold with
      active := [⟨{ window with label := 10 }, 2, 7⟩, ⟨{ window with label := 20 }, 0, 8⟩]
      generation := 8 }
    ((st.count ⟨10, 7⟩).active.map (·.hits)) = [3, 0] ∧
      ((st.count ⟨20, 7⟩).active.map (·.hits)) = [2, 0] := by decide +kernel

/-- Section 3.8, event 9: a reply whose length is correct is restored toward the origin, and its tag joins
the pool. -/
theorem test_replyTake :
    let reply : Packet := ⟨.reply, 4, 31, 5, 64, 0, 0, List.replicate 64 0xAA⟩
    let s := after (.replyTake .d) (working .d .c reply (.take awaiting) (tracked [awaiting] bothUp))
    (s.ports.u.transmit.c.map fun k => (k.packet.source, k.packet.dest, k.packet.tag,
        k.packet.length)) = [(31, 3, 5, 64)] ∧
      s.tracker.entries = [] ∧ s.tracker.free.getLast? = some 5 := by decide +kernel

/-- R53: a reply of the wrong length becomes a PARTNER_ERROR of length 0. -/
theorem test_replyTake_wrongLength :
    let reply : Packet := ⟨.reply, 4, 31, 5, 32, 0, 0, List.replicate 32 0xAA⟩
    let s := after (.replyTake .d) (working .d .c reply (.take awaiting) (tracked [awaiting] bothUp))
    (s.ports.u.transmit.c.map fun k => (k.packet.status, k.packet.length)) = [(6, 0)] ∧
      (s.notices.queue.map (·.req.kind)) = [.partnerError] := by decide +kernel

/-- Section 3.8, event 4: a reply whose tag cools is late. -/
theorem test_lateReply :
    let reply : Packet := ⟨.reply, 3, 31, 5, 64, 0, 0, List.replicate 64 0⟩
    ((after (.replyPresentation .d) (working .d .c reply .present bothUp)).notices.queue.map (·.req)) =
      [⟨.lateReply, some .d, 3, 5, 64, 0, 0, 0⟩] := by decide +kernel

/-- Section 3.8, event 2: the entry closes with TIMEOUT, not before its deadline. -/
theorem test_entryExpiry :
    let s := tracked [awaiting] bothUp
    ((after (.entryExpiry 5) { s with timebase := 19999 }).tracker.entries.map (·.state)) =
        [.awaiting] ∧
      ((after (.entryExpiry 5) { s with timebase := 20000 }).tracker.entries.map (·.state)) =
        [.closing .timeout 0] := by decide +kernel

/-- Section 3.8, event 3: the closing reply is placed, and tag 5 cools until 21,300 + 20,000. -/
theorem test_closingReply :
    let s := after (.closingReplyPlacement .u)
      { tracked [{ awaiting with state := .closing .timeout 0 }] bothUp with timebase := 21300 }
    (s.ports.u.transmit.c.map fun k => (k.packet.status, k.packet.dest, k.packet.tag)) = [(3, 3, 5)] ∧
      s.tracker.cooling = [⟨5, 41300⟩] := by decide +kernel

/-- Section 3.8, event 7: the tag joins the tail of the pool, and the wait mark for a tag is cleared. -/
theorem test_coolingExpiry :
    let s := after (.coolingExpiry 5)
      { headDropped .d .n [.tag] bothUp with tracker := ⟨[], [], [⟨5, 41300⟩]⟩, timebase := 41330 }
    s.tracker.free = [5] ∧ s.tracker.cooling = [] ∧ s.dispatchers.d.marks.n = [] := by decide +kernel

/-- R74: a held READ whose limit ends is answered REFUSED, with a HOLD_EXPIRED notice. -/
theorem test_holdExpiry :
    let s := after (.holdExpiry 1) { holding [heldRead] bothUp with timebase := 1000 }
    (s.hold.slots.map (·.state)) = [.answering .refused 0] ∧
      (s.notices.queue.map (·.req.kind)) = [.holdExpired] := by decide +kernel

/-- Section 5.9: members 1 and 3 of the example batch, an INSERT of label 40 and one of label 20. -/
def insertOf (label : Byte) (position : Byte) (target : Byte) (action : Byte) : List Byte :=
  [position, 0, label, 0, 3, 3, 0xFF, 0xFF, 0xFF, 0xFF, 0, 0, 0, 0, 0, 0, action, 1]
    ++ toLE 8 0x1000 ++ [target, 0] ++ toLE 6 0 ++ toLE 8 0

def exampleStaging : List Entry :=
  [{ window with label := 10, pinned := true }, { windowTo .refuse with label := 20 },
   { windowTo .hold with label := 30 }]

/-- Section 5.9: the batch answers DUP_LABEL with failure index 3 and leaves the Staging List 10, 40, 20. -/
theorem test_batch_example :
    let member := fun (code : Byte) (body : List Byte) => block code body
    let s := after (.batch 5) (command 16
      (member 1 (insertOf 40 1 5 1) ++ member 2 [30, 0] ++ member 1 (insertOf 20 2 6 2)
        ++ member 2 [20, 0] ++ member 6 []) (withEntries exampleStaging bothUp))
    resultOf s = some [5, 3] ∧ (s.steering.staging.map (·.label)) = [10, 40, 20] := by decide +kernel

/-- R86: a label pinned in the Active List is not removed. -/
theorem test_remove_pinned :
    resultOf (after .remove (command 2 [10, 0] (withEntries exampleStaging bothUp))) = some [8, 1] := by
  decide +kernel

/-- R88: a MOVE to position 0 keeps the others in order (Section 1.10). -/
theorem test_move :
    ((after .move (command 4 [30, 0, 0, 0] (withEntries
      [{ window with label := 10 }, { window with label := 20 }, { window with label := 30 }]
        bothUp))).steering.staging.map (·.label)) = [30, 10, 20] := by decide +kernel

/-- R87: a MODIFY that selects notify alone changes it alone (Section 1.10). -/
theorem test_modify :
    let img : List Byte := List.replicate 15 0 ++ [0x08] ++ List.replicate 24 0
    let s := after .modify (command 3 ([20, 0, 0, 4] ++ img) (withEntries
      [{ windowTo .refuse with label := 20, notify := some true }] bothUp))
    s.steering.staging = [{ windowTo .refuse with label := 20, notify := some false }] := by
  decide +kernel

/-- Section 5.8, event 1: COMMIT answers ACCEPTED, and a fence of each port stands in its slot. -/
theorem test_commit :
    let s := after .commit (command 6 [] (tracked [awaiting] bothUp))
    resultOf s = some [1, 0] ∧ s.steering.generation = 1 ∧ s.commit.remaining = 3 ∧
      s.commit.fences = ⟨.outstanding, .outstanding⟩ ∧
      (s.tracker.entries.map (·.tag)) = [5, 126, 127] ∧ s.ports.u.fenceSlot.isSome = true := by
  decide +kernel

/-- R94: a COMMIT with no port UP and an empty tracker ends its drain CLEAN at once. -/
theorem test_commit_ends_at_once :
    let s := after .commit (command 6 [] State.reset)
    s.commit.state = .idle ∧ s.commit.lastOutcome = .clean ∧
      (s.notices.queue.map fun n => (n.req.kind, n.req.detail)) = [(.commitDone, 1)] := by
  decide +kernel

/-- Section 6.8, event 1: SET_APERTURE records a pending move. -/
theorem test_setAperture :
    (after .setAperture (command 11 [0, 0, 0xFF, 0x7F, 0, 0, 0, 0] bothUp)).mgmt.pendingBase =
      some 0x7FFF0000 := by decide +kernel

/-- Section 6.8, event 3: the move takes effect as the reply is placed. -/
theorem test_commandReply :
    let s := queueing [{ commandSlot [] with state := .answerReady ⟨.ok, [0, 0, 0, 0, 0, 0, 0, 0], false⟩ }]
      bothUp
    let t := after .commandReplyPlacement { s with mgmt := { s.mgmt with pendingBase := some 0x7FFF0000 } }
    t.mgmt.apertureBase = 0x7FFF0000 ∧ t.mgmt.queue = [] ∧
      (t.ports.u.transmit.c.map fun k => (k.packet.dest, k.packet.tag, k.packet.length)) =
        [(3, 9, 8)] := by decide +kernel

/-- Section 6.8, event 6: a unit outside the manager set is answered REFUSED. -/
theorem test_notManager :
    let slot := { commandSlot [] with kind := .read, offset := 0x1000, length := 16, source := 5 }
    let s := queueing [slot] bothUp
    let t := after .notManagerRefusal { s with mgmt := { s.mgmt with managers := 3 } }
    (t.mgmt.queue.map (·.state)) = [.answerReady ⟨.refused, [], false⟩] ∧
      (t.notices.queue.map fun n => (n.req.kind, n.req.detail)) = [(.apertureMisuse, 2)] := by
  decide +kernel

/-- Table 11-10: the aperture base stands at offset 0x40 of the status block, the generation at 2. -/
theorem test_statusBlock :
    readArea .status 0x1040 6 { bothUp with mgmt := { bothUp.mgmt with apertureBase := 0x7FFF0000 } } =
        [0, 0, 0xFF, 0x7F, 0, 0] ∧
      readArea .status 0x1002 2 example19 = [7, 0] ∧
      readArea .status 0x1030 4 bothUp = [3, 4, 20, 9] := by decide +kernel

/-- R137: a pop of an empty notice queue returns a NONE record with the next sequence number. -/
theorem test_noticePop_empty :
    let slot := { commandSlot [] with kind := .read, offset := 0x4000, length := 32 }
    let s := { queueing [slot] bothUp with notices := ⟨[], 0x1F4, 2⟩ }
    ((after .noticePop s).ports.u.transmit.c.map fun k => (k.packet.payload.take 6, k.packet.payload[22]?)) =
      [([0, 0, 0, 0, 0xF4, 1], some 2)] := by decide +kernel

/-- Section 7.7, events 1 and 2: the 32nd record is accepted, and the next notice dropped and counted. -/
theorem test_notice_overflow :
    let r : NoticeReq := ⟨.timeout, none, 0, 0, 0, 0, 0, 0⟩
    let n : NoticeUnit := ⟨List.replicate 31 ⟨r, 0, 0, 0⟩, 500, 0⟩
    ((n.take 0 r).queue.length, (n.take 0 r).nextSeq, (n.take 0 r).dropped) = (32, 501, 0) ∧
      (((n.take 0 r).take 0 r).queue.length, ((n.take 0 r).take 0 r).nextSeq,
        ((n.take 0 r).take 0 r).dropped) = (32, 501, 1) := by decide +kernel

/-! ### Hypotheses that are met: the machine as a whole and training -/

theorem test_met_EveryStepGoesOn :
    State.reset.pending = [] ∧ dueExpiries atLimit State.reset = [] ∧
    (let s := { State.reset with tracker := ⟨[], [], [⟨5, 10⟩]⟩ }
     dueExpiries atLimit { s with timebase := 59 } = [] ∧
       dueExpiries atLimit { s with timebase := 60 } = [.coolingExpiry 5] ∧ ¬AtLimit 59 10 ∧
       AtLimit 60 10 ∧ ¬AtLimit 9 10 ∧ AtLimit (2 ^ 31 + 9) 10 ∧ ¬AtLimit (2 ^ 31 + 10) 10) := by
  decide +kernel

/-- A command write stands at the head of the command queue. -/
def Carries (code : CommandCode) (byte : Byte) (body : List Byte) (s : State) : Prop :=
  Takes code body (commandSlot (block byte body)) [] (command byte body s)

theorem test_met_TrainingBegins :
    (State.reset.port .d).state = .offline ∧ (bothUp.port .d).state ≠ .offline ∧
    (let s := withPort .u { linkUp with state := .faulted, holdOff := some 10000 }
        { bothUp with timebase := 9999 }
     (s.port .u).state = .faulted ∧ (s.port .u).holdOff = some 10000 ∧
       ¬Reached s.timebase 10000) ∧
    (let s := withPort .u { linkUp with state := .faulted, holdOff := some 10000 }
        { bothUp with timebase := 10000 }
     (s.port .u).state = .faulted ∧ (s.port .u).holdOff = some 10000 ∧
       Reached s.timebase 10000) ∧
    Carries .linkRestart 14 [2, 0] (linkIs .d .faulted bothUp) ∧
    ((command 14 [2, 0] (linkIs .d .faulted bothUp)).port .d).state = .faulted ∧
    Carries .linkRestart 14 [1, 0] (linkIs .d .faulted bothUp) ∧ byteAt [1, 0] 0 ≠ 2 ∧
    Carries .linkRestart 14 [2, 0] bothUp ∧ ((command 14 [2, 0] bothUp).port .d).state ≠ .faulted := by
  unfold Carries Takes; decide +kernel

/-- Port U in an attempt with TRAINs due. -/
def trainDue (a : Option Attempt) (due : List Phase) : State :=
  withPort .u { linkUp with state := .training, attempt := a, owedTrains := due } bothUp

theorem test_met_TrainsAreSent :
    (let a := attempt .new .ident
     let s := trainDue (some a) [.speed]
     (s.port .u).attempt = some a ∧ (s.port .u).owedTrains = .speed :: []) ∧
    (let a := attempt .new .speed
     let s := trainDue (some a) []
     (s.port .u).attempt = some a ∧ (s.port .u).owedTrains = [] ∧ a.phase = .speed) ∧
    (let a := attempt .new .ready
     let s := trainDue (some a) [.ready]
     (s.port .u).attempt = some a ∧ (s.port .u).owedTrains = .ready :: []) ∧
    (let a := attempt .new .ready
     let s := trainDue (some a) []
     (s.port .u).attempt = some a ∧ (s.port .u).owedTrains = [] ∧ a.phase = .ready) ∧
    (let a := attempt .new .ident
     let s := trainDue (some a) [.ident]
     (s.port .u).attempt = some a ∧ (s.port .u).owedTrains = .ident :: []) ∧
    (let a := attempt .new .ident
     let s := trainDue (some a) []
     (s.port .u).attempt = some a ∧ (s.port .u).owedTrains = [] ∧ a.phase = .ident) ∧
    (let s := trainDue none [.ready]
     (s.port .u).attempt = none ∧ (s.port .u).owedTrains = .ready :: []) := by decide +kernel

/-- A packet with the check code of its bytes is read as those bytes say. -/
theorem readsAs {body : List Byte} {f : Frame} (h : frameLength body = some body.length ∧
    readBody body = f) : readWire (sealed body) = f := by
  rw [readWire_sealed _ h.1, h.2]

/-- A port that was put in an attempt is in it. -/
theorem attempting_is (p : Port) (st : LinkState) (a : Attempt) (count : Nat) (s : State) :
    let t := attempting p st a count s
    (t.port p).state = st ∧ (t.port p).attempt = some a ∧ (t.port p).attempts = count := by
  cases p <;> exact ⟨rfl, rfl, rfl⟩

/-- Two lanes at 10 Gbit/s are an offer, three are none, and four are another. -/
theorem test_met_Offers :
    Offers ⟨.x2, .g10⟩ 2 10 ∧ (∀ o, ¬Offers o 3 10) ∧
      ∀ o, Offers o 2 10 → some (⟨.x4, .g10⟩ : Offer) ≠ some o := by
  simp only [offers_iff]
  refine ⟨by decide, fun o => ?_, fun o h => ?_⟩
  · rw [show offerOf 3 10 = none by decide]; exact nofun
  · rw [show offerOf 2 10 = some ⟨.x2, .g10⟩ by decide] at h; cases h; decide

theorem test_met_SpeedIsTaken :
    (∀ mode ∈ [modeByte .new, modeByte .resume], ∀ lanes ∈ [(2 : Byte), 3],
      readWire (sealed [0x10, 1, mode, lanes, 10]) = .speed mode lanes 10) ∧
    modeByte .resume ≠ modeByte .new ∧
    (∀ phase ∈ [Phase.speed, .ident, .ready],
      ∀ partner ∈ [none, some (⟨.x2, .g10⟩ : Offer), some ⟨.x4, .g10⟩], ∀ count ∈ [0, 1, 2],
      ∀ st ∈ [LinkState.training, .retraining], ∀ mode ∈ [Mode.new, .resume],
        let a := { attempt mode phase with partner := partner }
        let s := attempting .u st a count bothUp
        (s.port .u).state = st ∧ st ≠ .up ∧ (s.port .u).attempt = some a ∧
          (s.port .u).attempts = count) ∧
    (State.reset.port .u).state ≠ .up ∧ (State.reset.port .u).attempt = none := by
  refine ⟨fun mode h lanes h' => readsAs ?_, by decide, fun phase _ partner _ count _ st h mode _ => ?_,
    by decide, rfl⟩
  · revert mode lanes; decide +kernel
  · obtain ⟨state, same, counted⟩ :=
      attempting_is .u st { attempt mode phase with partner := partner } count bothUp
    exact ⟨state, by rintro rfl; simp at h, same, counted⟩

/-- A port with three packets unacknowledged: it has sent 0 to 3 and holds S = 0. -/
def threeHeld : LinkPort :=
  { linkUp with
    txNext := 4, acked := some 0, replayStore := [⟨1, readReq⟩, ⟨2, readReq⟩, ⟨3, readReq⟩]
    ackDeadline := some 1000 }

theorem test_met_IdentIsTaken :
    (∀ last : SeqNo, last ∈ [(0 : SeqNo), 3, 4, 4095] →
      readWire (sealed (identBytes 9 ⟨16, 16, 32⟩ last)) = .ident 9 ⟨16, 16, 32⟩ last) ∧
    (∀ phase ∈ [Phase.speed, .ident, .ready],
      let s := attempting .u .training (attempt .new phase) 0 bothUp
      (s.port .u).attempt = some (attempt .new phase) ∧ (attempt .new phase).phase = phase) ∧
    (bothUp.port .u).attempt = none ∧
    ∀ count ∈ [0, 1, 2],
      let s := attempting .u .retraining (attempt .resume .ident) count (withPort .u threeHeld bothUp)
      (s.port .u).attempt = some (attempt .resume .ident) ∧ (s.port .u).acked = some 0 ∧
        (s.port .u).attempts = count ∧ (s.port .u).state = .retraining ∧ InWindow (s.port .u) 0 0 ∧
        InWindow (s.port .u) 0 3 ∧ ¬InWindow (s.port .u) 0 4 ∧ ¬InWindow (s.port .u) 0 4095 := by
  unfold InWindow
  refine ⟨fun last h => readsAs ?_, ?_⟩
  · revert last; decide +kernel
  · decide +kernel

/-- What a port in training discards comes to every port that is not UP, and what it discards before READY
to one that is down and to one in SPEED or IDENT. -/
theorem test_met_TrainingDiscards :
    readWire [1] = .damaged ∧ readWire (sealed (replayReqBytes 5)) = .replayReq 5 ∧
    readWire (sealed readyBytes) = .ready ∧
    readWire (sealed (packetBytes readReq 0)) = .traffic readReq 0 ∧
    readWire (sealed (ackBytes 0 ⟨16, 16, 32⟩)) = .ack 0 ⟨16, 16, 32⟩ ∧
    ∀ phase ∈ [Phase.speed, .ident, .ready],
      let s := attempting .u .training (attempt .new phase) 0 bothUp
      (s.port .u).state ≠ .up ∧ (s.port .u).attempt = some (attempt .new phase) ∧
        (State.reset.port .u).attempt = none ∧ (State.reset.port .u).state ≠ .up := by
  constructorm* _ ∧ _ <;> first | exact readsAs (by decide +kernel) | decide +kernel

theorem test_met_RetrainingBegins :
    let s := withPort .u { threeHeld with rounds := 4 } { bothUp with timebase := 1000 }
    (s.port .u).state = .up ∧ (s.port .u).ackDeadline = some 1000 ∧ Reached s.timebase 1000 ∧
      (s.port .u).replayStore ≠ [] ∧ readWire (sealed [0x10, 1, 2, 2, 10]) = .speed 2 2 10 ∧
      readWire (sealed [0x12, 0, 0, 0]) = .replayReq 0 ∧ ¬NotSent (s.port .u) 0 ∧
      packetsAfter (s.port .u) 0 ≠ [] ∧ (s.port .u).rounds = 4 ∧ ¬Reached 999 1000 := by
  dsimp only
  constructorm* _ ∧ _ <;> first | exact readsAs (by decide +kernel) | decide +kernel

/-- The bytes of the READ above with sequence number 0 as they arrive. -/
def readWireBytes : List Byte := packetBytes readReq 0

theorem test_met_PortEntersUp :
    let s := attempting .u .training (attempt .new .ready) 0 bothUp
    (s.port .u).state ≠ .up ∧ (s.port .u).attempt = some (attempt .new .ready) ∧
      (attempt .new .ready).phase = .ready ∧ readWire (sealed [0x10, 3]) = .ready ∧
      readWire (sealed readWireBytes) = .traffic readReq 0 ∧
      readWire (sealed [0x11, 0, 0xFF, 0x0F, 16, 16, 32]) = .ack 4095 ⟨16, 16, 32⟩ ∧
      (bothUp.port .u).state = .up := by
  dsimp only
  constructorm* _ ∧ _ <;> first | exact readsAs (by decide +kernel) | decide +kernel

theorem test_met_AttemptExpiresAndRepeats :
    ∀ count ∈ [0, 1, 2], ∀ st ∈ [LinkState.training, .retraining],
      let a := attempt (if st = .training then .new else .resume) .ident
      let s := { attempting .u st a count bothUp with timebase := 2000 }
      (s.port .u).attempt = some a ∧ Reached s.timebase a.deadline ∧
        (s.port .u).attempts = count ∧ (s.port .u).state = st ∧ ¬Reached 1999 a.deadline := by
  decide +kernel

/-- Port D in its third attempt of a retraining, at its deadline, with an entry of each kind of the
tracker. -/
def portDFails (other : LinkState) : State :=
  { linkIs .u other (attempting .d .retraining (attempt .resume .speed) 2 (tracked
      [awaiting, { awaiting with tag := 6, origin := some ⟨.d, 3, 5⟩ },
        { fenceOfU with tag := 127, egress := .d },
        { awaiting with tag := 7, egress := .u, origin := some ⟨.d, 3, 5⟩ },
        { awaiting with tag := 8, state := .orphaned },
        { awaiting with tag := 9, state := .closing .timeout 0, origin := some ⟨.d, 3, 5⟩ },
        { awaiting with tag := 10, egress := .u }] bothUp)) with timebase := 2000 }

theorem test_met_PortGoesDown :
    ∀ other ∈ [LinkState.up, .faulted],
      let s := portDFails other
      (s.port .d).attempt = some (attempt .resume .speed) ∧ Reached s.timebase 2000 ∧
        (s.port .d).attempts = 2 ∧ (s.port .d).state = .retraining ∧ s.hold.release = none ∧
        (∃ e ∈ s.tracker.entries, e.state = .awaiting ∧ e.egress = .d ∧ e.kind = .drainFence ∧
          e.origin = none) ∧
        (∃ e ∈ s.tracker.entries, e.state = .awaiting ∧ e.egress = .d ∧
          e.origin = some ⟨.d, 3, 5⟩) ∧
        (∃ e ∈ s.tracker.entries, e.state = .awaiting ∧ e.egress = .d ∧ e.origin = some ⟨.u, 3, 5⟩ ∧
          portIsDown .u s = decide (other = .faulted)) ∧
        (∃ e ∈ s.tracker.entries, e.state = .awaiting ∧ e.egress ≠ .d ∧
          e.origin = some ⟨.d, 3, 5⟩) ∧
        (∃ e ∈ s.tracker.entries, e.state = .orphaned ∧ e.egress = .d) ∧
        (∃ e ∈ s.tracker.entries, e.state = .closing .timeout 0 ∧ e.origin = some ⟨.d, 3, 5⟩) ∧
        (∃ e ∈ s.tracker.entries, e.egress ≠ .d ∧ e.origin = some ⟨.u, 3, 5⟩) := by
  decide +kernel

theorem test_met_PortGoesDown_next (other : LinkState) :
    ∃ t, exec (.attemptDeadlineExpiry .d) (portDFails other) = .next t := ⟨_, rfl⟩

/-- Either port in its third attempt of a retraining, at its deadline, while a request of port U is released
and a drain goes on. -/
theorem test_met_PortGoesDown_release :
    ∀ p ∈ [Port.u, .d], ∀ phase ∈ [ReleasePhase.waiting, .lookup, .place forwarded awaiting],
      let s := { attempting p .retraining (attempt .resume .speed) 2
        (releaseIs phase (tracked [awaiting, fenceOfU] bothUp)) with timebase := 2000 }
      (s.port p).attempt = some (attempt .resume .speed) ∧ Reached s.timebase 2000 ∧
        (s.port p).attempts = 2 ∧ (s.port p).state = .retraining ∧
        ((releaseStopped p s).isSome ↔ p = .u ∧ phase ≠ .waiting) ∧
        ((entryWithdrawn p s).isSome ↔ p = .u ∧ phase = .place forwarded awaiting) := by
  decide +kernel

/-! ### Hypotheses that are met: reception, replay and transmission -/

theorem test_met_PacketIsReceived :
    (bothUp.port .u).state = .up ∧ readWire [1] = .damaged ∧
    (∀ seq ∈ [(0 : SeqNo), 4095, 4032, 4031],
      readWire (sealed (packetBytes readReq seq)) = .traffic readReq seq) ∧
    ((linkUp.rxNext - 4095).toNat = 1 ∧ (linkUp.rxNext - 4032).toNat = 64 ∧
      (linkUp.rxNext - 4031).toNat = 65 ∧ (linkUp.rxNext - 0).toNat = 0) ∧
    linkUp.rxMode = .inOrder ∧ { linkUp with rxMode := .awaitingReplay }.rxMode = .awaitingReplay ∧
    (∀ k ∈ [15, 16], ({ linkUp with
        ingress := ⟨[], List.replicate k ⟨readReq, 0, false⟩, []⟩ }.ingress.get .n).length = k) ∧
    slotsOf (channelOf readReq.kind) = 16 := by
  refine ⟨by decide +kernel, by decide +kernel, fun seq h => readsAs ?_, by decide +kernel,
    by decide +kernel, by decide +kernel, by decide +kernel, by decide +kernel⟩
  revert seq; decide +kernel

theorem test_met_AcknowledgementAndReplayRequestAreTaken :
    let s := withPort .u threeHeld bothUp
    ((s.port .u).state = .up ∧ (s.port .u).acked = some 0 ∧ InWindow (s.port .u) 0 0 ∧
      InWindow (s.port .u) 0 3 ∧ ¬InWindow (s.port .u) 0 4 ∧ ¬InWindow (s.port .u) 0 4095) ∧
    (NotSent (s.port .u) 4 ∧ NotSent (s.port .u) 2051 ∧ ¬NotSent (s.port .u) 2052 ∧
      ¬NotSent (s.port .u) 3 ∧ packetsAfter (s.port .u) 3 = [] ∧ packetsAfter (s.port .u) 2 ≠ [] ∧
      (s.port .u).rounds < 4 ∧
      (withPort .u { threeHeld with rounds := 3 } bothUp |>.port .u).rounds < 4) ∧
    (∀ seq ∈ [(0 : SeqNo), 3, 4, 4095],
      readWire (sealed (ackBytes seq ⟨16, 16, 32⟩)) = .ack seq ⟨16, 16, 32⟩) ∧
    ∀ seq ∈ [(2 : SeqNo), 3, 4, 2051, 2052], readWire (sealed (replayReqBytes seq)) = .replayReq seq := by
  refine ⟨?_, ?_, fun seq h => readsAs ?_, fun seq h => readsAs ?_⟩
  · unfold InWindow; decide +kernel
  · decide +kernel
  all_goals revert seq; decide +kernel

theorem test_met_LinkControlAndReplayAreSent :
    let s := withPort .u { threeHeld with replayLeft := [1, 2, 3] } bothUp
    (s.port .u).state = .up ∧
      (withPort .u { linkUp with ackOwed := true } bothUp |>.port .u).ackOwed = true ∧
      (withPort .u { linkUp with replayReqs := [4095, 4095] } bothUp |>.port .u).replayReqs =
        4095 :: [4095] ∧
      (s.port .u).ackOwed = false ∧ (s.port .u).replayReqs = [] ∧ (s.port .u).owedTrains = [] ∧
      (s.port .u).replayLeft = 1 :: [2, 3] ∧
      ((s.port .u).replayStore.find? fun k => k.seq = 1) = some ⟨1, readReq⟩ := by decide +kernel

/-- Port U with a head in each channel and, with stamp 0, a fence in its slot. -/
def threeHeads (fence : Option OutSlot) (pointer : Chan) (credit : Trio Nat) : LinkPort :=
  { linkUp with
    transmit := ⟨[⟨writeReq, 2⟩], [⟨readReq, 1⟩], [⟨shortReply 31 3 5 .ok, 3⟩]⟩
    fenceSlot := fence, nextStamp := 4, pointer := pointer, credit := credit }

theorem test_met_ChosenHeadIsTransmitted :
    (let lp := threeHeads none .p ⟨1, 1, 1⟩
     HeadSendable lp .p ∧ lp.chosen = some .p ∧ Competes lp .p ⟨writeReq, 2⟩ false) ∧
    (let lp := threeHeads none .p ⟨0, 1, 1⟩
     ¬HeadSendable lp .p ∧ HeadSendable lp .n ∧ lp.chosen = some .n ∧
       Competes lp .n ⟨readReq, 1⟩ false) ∧
    (let lp := threeHeads none .p ⟨0, 0, 1⟩
     ¬HeadSendable lp .n ∧ HeadSendable lp .c ∧ lp.chosen = some .c) ∧
    (let s := withPort .u (threeHeads (some ⟨fenceReq, 0⟩) .n ⟨1, 1, 1⟩) bothUp
     (s.port .u).chosen = some .n ∧ Competes (s.port .u) .n ⟨fenceReq, 0⟩ true ∧
       (s.port .u).ackOwed = false ∧ (s.port .u).replayReqs = [] ∧ (s.port .u).owedTrains = [] ∧
       (s.port .u).replayLeft = []) ∧
    (∀ ch, ¬HeadSendable (threeHeads none .p ⟨0, 0, 0⟩) ch) ∧
    (withPort .u { linkUp with replayReqs := [4095] } bothUp |>.port .u).replayReqs ≠ [] := by
  simp only [headSendable_iff, competes_iff]
  constructorm* _ ∧ _ <;> first | decide +kernel | (intro ch; cases ch <;> decide +kernel)

/-! ### Hypotheses that are met: dispatch -/

/-- A request that stands at a head is taken and decided, by checks that evaluate. -/
theorem decides_of {p : Port} {ch : Chan} {req : Packet} {dec : Decision} {s : State}
    (h : ch ≠ .c ∧ chosenHead p s = some ch ∧
      ((s.ports.get p).ingress.get ch).head? = some ⟨req, 0, false⟩ ∧
      malformation (s.mgmt.params.unit.get p) req = none ∧ req.kind ≠ .fence ∧
      ¬(p = .u ∧ s.mgmt.apertureBase.toNat ≤ req.address.toNat ∧
        req.address.toNat ≤ s.mgmt.apertureBase.toNat + 0xFFFF) ∧
      dec = s.lookup false ⟨p, req.source, req.kind, req.address, req.length.toNat⟩) :
    Decides p ch req dec s :=
  ⟨takesRequest_of (slot := ⟨req, 0, false⟩) h.1 h.2.1 h.2.2.1 rfl h.2.2.2.1, h.2.2.2.2.1,
    h.2.2.2.2.2.1, h.2.2.2.2.2.2⟩

/-- A FENCE or an aperture access that stands at a head is taken. -/
theorem takes_of {p : Port} {ch : Chan} {req : Packet} {s : State}
    (h : ch ≠ .c ∧ chosenHead p s = some ch ∧
      ((s.ports.get p).ingress.get ch).head? = some ⟨req, 0, false⟩ ∧
      malformation (s.mgmt.params.unit.get p) req = none) : TakesRequest p ch req s :=
  takesRequest_of (slot := ⟨req, 0, false⟩) h.1 h.2.1 h.2.2.1 rfl h.2.2.2

theorem test_met_TakesOffer :
    TakesOffer .u .c bothUp ∧ TakesOffer .u .c (nearlyFilled .u .c bothUp) ∧
    TakesOffer .u .c (linkIs .u .retraining bothUp) ∧ ¬TakesOffer .u .c (filled .u .c bothUp) ∧
    RefusesAsFull .u .c (filled .u .c bothUp) ∧ RefusesAsDown .u (linkIs .u .faulted bothUp) ∧
    RefusesAsDown .u (linkIs .u .training bothUp) ∧ RefusesAsDown .u State.reset := by
  unfold RefusesAsFull TakesOffer RefusesAsDown; decide +kernel

theorem test_met_FirstEligibleHeadIsTaken :
    chosenHead .u (arrived .u .n readReq bothUp) = some .n ∧ chosenHead .u bothUp = none ∧
    chosenHead .u (withPort .u { linkUp with
      ingress := ⟨[⟨writeReq, 1, false⟩], [⟨readReq, 0, false⟩], []⟩ } bothUp) = some .p := by
  decide +kernel

theorem test_met_RepliesAndAbortedHeadsAreDispatched :
    let reply := shortReply 9 31 5 .ok
    let aborted := fun s : State => withPort .d { s.port .d with
      ingress := ⟨[], [⟨readReq, 0, true⟩], []⟩ } s
    TakesHead .d .c ⟨reply, 0, false⟩ (arrived .d .c reply bothUp) ∧
      TakesHead .d .n ⟨readReq, 0, true⟩ (aborted bothUp) ∧ TakesOffer .d .c (aborted bothUp) ∧
      TakesHead .d .n ⟨readReq, 0, true⟩ (aborted (filled .d .c bothUp)) ∧
      ¬TakesOffer .d .c (aborted (filled .d .c bothUp)) := by
  unfold TakesHead TakesOffer; decide +kernel

theorem test_met_MalformedHeadIsRefused :
    (∀ req ∈ [{ writeReq with length := 0 }, { writeReq with length := 257 },
        { writeReq with length := 2, address := 0xFFFFFFFFFFFF }, { writeReq with dest := 30 },
        { writeReq with source := 31 }],
      TakesHead .u .p ⟨req, 0, false⟩ (arrived .u .p req bothUp) ∧ Malformed 31 req ∧
        req.kind = .write) ∧
    (∀ req ∈ [{ readReq with length := 0 }, { readReq with length := 257 },
        { fenceReq with length := 1 }, { readReq with kind := .other 9 }],
      TakesHead .u .n ⟨req, 0, false⟩ (arrived .u .n req bothUp) ∧ Malformed 31 req ∧
        req.kind ≠ .write ∧ TakesOffer .u .c (arrived .u .n req bothUp) ∧
        TakesHead .u .n ⟨req, 0, false⟩ (arrived .u .n req (filled .u .c bothUp)) ∧
        ¬TakesOffer .u .c (arrived .u .n req (filled .u .c bothUp))) := by
  unfold TakesHead Malformed TakesOffer; decide +kernel

/-- The part with one entry in both lists and a request at a head of port U, U's C transmit queue full or
not. -/
def facing (e : Entry) (ch : Chan) (req : Packet) (full : Bool) : State :=
  arrived .u ch req (withEntries [e] (if full then filled .u .c bothUp else bothUp))

/-- The entry that covers only the first half of the READ above. -/
def halfWindow : Entry := { windowTo .refuse with base := 0, size := 0x1000 }

theorem test_met_RefusalIsCarriedOut :
    (∀ full ∈ [true, false],
      Decides .u .p writeReq ⟨.refuse false, 7, 0⟩ (facing (windowTo .refuse) .p writeReq full) ∧
      Decides .u .n readReq ⟨.refuse false, 7, 0⟩ (facing (windowTo .refuse) .n readReq full) ∧
      Decides .u .n readReq ⟨.refuse true, 7, 0⟩
        (facing { windowTo .refuse with notify := some true } .n readReq full) ∧
      Decides .u .n { readReq with address := 0xFE0 } ⟨.boundary, 7, 0⟩
        (facing halfWindow .n { readReq with address := 0xFE0 } full) ∧
      Decides .u .n readReq ⟨.defaultRefuse, 0, 0⟩ (facing halfWindow .n readReq full) ∧
      (TakesOffer .u .c (facing halfWindow .n readReq full) ↔ full = false)) ∧
    ∀ full ∈ [true, false],
      let down := fun ch req => linkIs .d .retraining (facing window ch req full)
      Decides .u .p writeReq forwarded (down .p writeReq) ∧
      Decides .u .n readReq forwarded (down .n readReq) ∧
      forwarded.ruling = .steer .forward .d 4 0x8000 20000 ∧
      ((down .n readReq).port .d).state ≠ .up ∧
      (TakesOffer .u .c (down .n readReq) ↔ full = false) := by
  refine ⟨fun full h => ?_, fun full h => ?_⟩ <;> unfold TakesOffer <;>
    simp only [List.mem_cons, List.not_mem_nil, or_false] at h <;> rcases h with rfl | rfl <;>
    constructorm* _ ∧ _ <;> first | exact decides_of (by decide +kernel) | decide +kernel

theorem test_met_SteeredHeldAndFenceRequestsGoOn :
    Decides .u .p writeReq forwarded (facing window .p writeReq false) ∧
    Decides .u .n readReq forwarded (facing window .n readReq false) ∧
    ((facing window .n readReq false).port .d).state = .up ∧
    Decides .u .n readReq ⟨.hold 1000, 7, 0⟩ (facing (windowTo .hold) .n readReq false) ∧
    TakesRequest .u .n fenceReq (facing window .n fenceReq false) ∧
    (∀ full ∈ [true, false],
      let s := linkIs .d .offline (facing window .n fenceReq full)
      TakesRequest .u .n fenceReq s ∧ (s.port .d).state ≠ .up ∧
        (TakesOffer .u .c s ↔ full = false)) := by
  constructorm* _ ∧ _
  all_goals first
    | exact decides_of (by decide +kernel)
    | exact takes_of (by decide +kernel)
    | decide +kernel
    | intro full h
  unfold TakesOffer
  simp only [List.mem_cons, List.not_mem_nil, or_false] at h
  rcases h with rfl | rfl <;> exact ⟨takes_of (by decide +kernel), by decide +kernel⟩

/-- A request of the aperture at a head of port U, with accesses waiting. -/
def facingAperture (ch : Chan) (req : Packet) (waiting : Nat) (full : Bool) : State :=
  queueing (List.replicate waiting (commandSlot [])) (facing window ch req full)

theorem test_met_ApertureAccessIsDispatched :
    let read := fun a n => { readReq with address := a, length := n }
    (∀ a ∈ [(0xFFF000000000 : Addr), 0xFFF00000FFFC],
      TakesRequest .u .p { writeReq with address := a }
        (facingAperture .p { writeReq with address := a } 0 false) ∧
      InAperture .u { writeReq with address := a }
        (facingAperture .p { writeReq with address := a } 0 false)) ∧
    (∀ waiting ∈ [3, 4], ∀ full ∈ [true, false], ∀ n ∈ [(1 : BitVec 16), 2],
      let req := read 0xFFF00000FFFF n
      let s := facingAperture .n req waiting full
      TakesRequest .u .n req s ∧ InAperture .u req s ∧ s.mgmt.queue.length = waiting ∧
        (TakesOffer .u .c s ↔ full = false) ∧
        (s.mgmt.apertureBase.toNat + 0xFFFF < req.address.toNat + req.length.toNat - 1 ↔ n = 2)) := by
  refine ⟨fun a h => ?_, fun waiting h full h' n h'' => ?_⟩ <;> unfold InAperture
  · simp only [List.mem_cons, List.not_mem_nil, or_false] at h
    rcases h with rfl | rfl <;> exact ⟨takes_of (by decide +kernel), by decide +kernel⟩
  · unfold TakesOffer
    simp only [List.mem_cons, List.not_mem_nil, or_false] at h h' h''
    rcases h with rfl | rfl <;> rcases h' with rfl | rfl <;> rcases h'' with rfl | rfl <;>
      exact ⟨takes_of (by decide +kernel), by decide +kernel⟩

/-! ### Hypotheses that are met: the offers of a dispatch -/

theorem test_met_PostedWriteIsOffered :
    let s := working .u .p writeReq (.pOffer forwarded) bothUp
    WaitsWith .u .p (.pOffer forwarded) writeReq s ∧ forwarded.generation = s.steering.generation ∧
      forwarded.ruling = .steer .forward .d 4 0x8000 20000 ∧ TakesOffer .d .p s ∧
      (let t := { s with steering := { s.steering with generation := 1 } }
       WaitsWith .u .p (.pOffer forwarded) writeReq t ∧
         forwarded.generation ≠ t.steering.generation) ∧
      (let t := filled .d .p s
       WaitsWith .u .p (.pOffer forwarded) writeReq t ∧ RefusesAsFull .d .p t) ∧
      (let t := linkIs .d .faulted s
       WaitsWith .u .p (.pOffer forwarded) writeReq t ∧ RefusesAsDown .d t ∧
         writeReq.kind = .write) := by
  unfold RefusesAsFull RefusesAsDown WaitsWith TakesOffer; decide +kernel

theorem test_met_TagIsAllocated :
    (let s := working .u .n readReq (.allocate forwarded) bothUp
     WaitsWith .u .n (.allocate forwarded) readReq s ∧ forwarded.generation = s.steering.generation ∧
       s.tracker.free = 0 :: s.tracker.free.tail ∧
       (let t := { s with tracker := ⟨[], [], []⟩ }
        WaitsWith .u .n (.allocate forwarded) readReq t ∧ t.tracker.free = []) ∧
       (let t := { s with steering := { s.steering with generation := 1 } }
        WaitsWith .u .n (.allocate forwarded) readReq t ∧ t.tracker.free ≠ [] ∧
          forwarded.generation ≠ t.steering.generation)) ∧
    (let s := working .u .n fenceReq (.allocateFence .d) bothUp
     WaitsWith .u .n (.allocateFence .d) fenceReq s ∧ s.tracker.free = 0 :: s.tracker.free.tail ∧
       (let t := { s with tracker := ⟨[], [], []⟩ }
        WaitsWith .u .n (.allocateFence .d) fenceReq t ∧ t.tracker.free = [])) := by
  unfold WaitsWith; decide +kernel

theorem test_met_TaggedRequestIsPlaced :
    let work := Work.place (some forwarded) awaiting
    let s := working .u .n readReq work (tracked [awaiting] bothUp)
    WaitsWith .u .n work readReq s ∧ entryUnder awaiting.tag s = some awaiting ∧
      TakesOffer .d .n s ∧
      WaitsWith .u .n work readReq (filled .d .n s) ∧
      entryUnder awaiting.tag (filled .d .n s) = some awaiting ∧
      RefusesAsFull .d .n (filled .d .n s) ∧
      WaitsWith .u .n work readReq (linkIs .d .faulted s) ∧ RefusesAsDown .d (linkIs .d .faulted s) ∧
      (let t := tracked [{ awaiting with state := .closing .linkDown 0 }] s
       WaitsWith .u .n work readReq t ∧ entryUnder awaiting.tag t ≠ some awaiting) ∧
      (let fence := { awaiting with kind := .fence }
       let t := working .u .n fenceReq (.place none fence) (tracked [fence] bothUp)
       WaitsWith .u .n (.place none fence) fenceReq t ∧ entryUnder fence.tag t = some fence) := by
  unfold RefusesAsFull RefusesAsDown WaitsWith TakesOffer; decide +kernel

theorem test_met_HoldOfferIsTaken :
    let dec : Decision := ⟨.hold 1000, 7, 0⟩
    ∀ count ∈ [7, 8], ∀ full ∈ [true, false],
      let held := (List.range count).map fun i => { heldRead with id := BitVec.ofNat 8 (i + 1) }
      let start := holding held (if full then filled .u .c bothUp else bothUp)
      let s := working .u .n readReq (.holdOffer .n dec) start
      let t := working .u .p writeReq (.holdOffer .p dec) start
      WaitsWith .u .n (.holdOffer .n dec) readReq s ∧ dec.ruling = .hold 1000 ∧
        s.hold.slots.length = count ∧ (TakesOffer .u .c s ↔ full = false) ∧
        WaitsWith .u .p (.holdOffer .p dec) writeReq t := by
  unfold WaitsWith TakesOffer; decide +kernel

theorem test_met_CompletionReportIsCounted :
    let st := { (withEntries [window] bothUp).steering with
      reports := ⟨[⟨7, 0⟩], [⟨0, 0⟩]⟩, holdReports := [⟨7, 0⟩] }
    st.reports.get .u = ⟨7, 0⟩ :: [] ∧ st.reports.get .d = ⟨0, 0⟩ :: [] ∧
      st.holdReports = ⟨7, 0⟩ :: [] := by
  decide +kernel

/-! ### Hypotheses that are met: replies and the tracker -/

/-- A reply of the status and length given stands at port D's C head, presented to the tracker. -/
def presented (e : Option TrackEntry) (status : Byte) (length : BitVec 16) (w : Work) : State :=
  working .d .c ⟨.reply, 4, 31, (e.map (·.tag)).getD 5, length, status, 0, []⟩ w
    (tracked e.toList bothUp)

theorem test_met_ReplyIsPresented :
    (∀ e : Option TrackEntry, e = none ∨ e = some { awaiting with egress := .u } →
      let s := presented e 0 64 .present
      WaitsWith .d .c .present ⟨.reply, 4, 31, 5, 64, 0, 0, []⟩ s ∧
        ∀ k, entryUnder 5 s = some k → k.egress ≠ .d) ∧
    (∀ st ∈ [TrackState.awaiting, .orphaned, .closing .timeout 0],
      let e := { awaiting with state := st }
      entryUnder 5 (presented (some e) 0 64 .present) = some e ∧ e.egress = .d ∧
        e.kind ≠ .drainFence) ∧
    FitsEntry awaiting ⟨.reply, 4, 31, 5, 64, 0, 0, []⟩ ∧
    FitsEntry awaiting ⟨.reply, 4, 31, 5, 0, 8, 0, []⟩ ∧
    ¬FitsEntry awaiting ⟨.reply, 4, 31, 5, 63, 0, 0, []⟩ ∧
    ¬FitsEntry awaiting ⟨.reply, 4, 31, 5, 0, 9, 0, []⟩ ∧
    (∀ n ∈ [0, 1],
      let e := { fenceOfU with tag := 127, egress := .d }
      let s := presented (some e) 0 (BitVec.ofNat 16 n) .present
      WaitsWith .d .c .present ⟨.reply, 4, 31, 127, BitVec.ofNat 16 n, 0, 0, []⟩ s ∧
        entryUnder 127 s = some e ∧ e.egress = .d ∧ e.kind = .drainFence ∧ e.state = .awaiting) := by
  refine ⟨fun e h => ?_, ?_⟩
  rotate_left
  · unfold FitsEntry WaitsWith; decide +kernel
  rcases h with rfl | rfl
  · have none : entryUnder 5 (presented none 0 64 .present) = none := by decide +kernel
    exact ⟨by unfold WaitsWith; decide +kernel, fun k h => by
      rw [none] at h; cases h⟩
  · have found : entryUnder 5 (presented (some { awaiting with egress := .u }) 0 64 .present) =
        some { awaiting with egress := .u } := by decide +kernel
    refine ⟨by unfold WaitsWith; decide +kernel, fun k h => ?_⟩
    rw [found, Option.some.injEq] at h
    rw [← h]; exact (by decide : Port.u ≠ .d)

theorem test_met_RestoredReplyIsTaken :
    (∀ full ∈ [true, false], ∀ length ∈ [(64 : BitVec 16), 32],
      let s := presented (some awaiting) 0 length (.take awaiting)
      let t := if full then filled .u .c s else s
      WaitsWith .d .c (.take awaiting) ⟨.reply, 4, 31, 5, length, 0, 0, []⟩ t ∧
        entryUnder 5 t = some awaiting ∧ awaiting.egress = .d ∧ awaiting.state = .awaiting ∧
        awaiting.origin = some ⟨.u, 3, 5⟩ ∧ (TakesOffer .u .c t ↔ full = false) ∧
        (FitsEntry awaiting ⟨.reply, 4, 31, 5, length, 0, 0, []⟩ ↔ length = 64)) ∧
    (let closed := { awaiting with state := .closing .timeout 0 }
     let s := presented (some closed) 0 64 (.take awaiting)
     WaitsWith .d .c (.take awaiting) ⟨.reply, 4, 31, 5, 64, 0, 0, []⟩ s ∧
       entryUnder 5 s ≠ some awaiting) := by
  unfold WaitsWith TakesOffer FitsEntry; refine ⟨fun full h length h' => ?_, by decide +kernel⟩
  simp only [List.mem_cons, List.not_mem_nil, or_false] at h h'
  rcases h with rfl | rfl <;> rcases h' with rfl | rfl <;> decide +kernel

theorem test_met_EntryExpires :
    (let s := { tracked [awaiting] bothUp with timebase := 20000 }
     entryUnder 5 s = some awaiting ∧ awaiting.state = .awaiting ∧ awaiting.kind ≠ .drainFence ∧
       Reached s.timebase awaiting.deadline) ∧
    (let s := { tracked [fenceOfU] bothUp with timebase := 20000 }
     entryUnder 126 s = some fenceOfU ∧ fenceOfU.state = .awaiting ∧
       fenceOfU.kind = .drainFence ∧ Reached s.timebase fenceOfU.deadline) ∧
    (let e := { awaiting with state := .orphaned }
     let s := { tracked [e] bothUp with timebase := 20000 }
     entryUnder 5 s = some e ∧ e.state = .orphaned ∧ Reached s.timebase e.deadline) ∧
    ¬Reached 19999 awaiting.deadline ∧ fenceTagOf .u = 126 := by
  decide +kernel

theorem test_met_OwedReplyIsPlaced :
    (let e := { awaiting with state := .closing .timeout 0 }
     let s := tracked [e, { e with tag := 6, state := .closing .aborted 1 }] bothUp
     e ∈ s.tracker.entries ∧ e.state = .closing .timeout 0 ∧ e.origin = some ⟨.u, 3, 5⟩ ∧
       TakesOffer .u .c s ∧ ¬TakesOffer .u .c (filled .u .c s)) ∧
    (¬∃ e status k, ∃ o : Origin, e ∈ bothUp.tracker.entries ∧ e.state = .closing status k ∧
      e.origin = some o ∧ o.port = .u) ∧
    (let h := { heldRead with state := .answering .refused 0 }
     let s := holding [h] bothUp
     h ∈ s.hold.slots ∧ h.state = .answering .refused 0 ∧ h.origin = .u ∧ TakesOffer .u .c s ∧
       ¬TakesOffer .u .c (filled .u .c s)) ∧
    ¬∃ h status k, h ∈ bothUp.hold.slots ∧ h.state = .answering status k ∧ h.origin = .u := by
  refine ⟨by unfold TakesOffer; decide +kernel, fun h => ?_, by unfold TakesOffer; decide +kernel,
    fun h => ?_⟩
  · obtain ⟨e, _, _, _, h, _⟩ := h; cases h
  · obtain ⟨e, _, _, h, _⟩ := h; cases h

theorem test_met_CoolingEnds :
    ∀ tag ∈ [(125 : Tag), 126],
      let s := { bothUp with tracker := ⟨[], [], [⟨tag, 41300⟩]⟩, timebase := 41300 }
      (⟨tag, 41300⟩ : CoolingTag) ∈ s.tracker.cooling ∧ Reached s.timebase 41300 ∧
        ¬Reached 41299 41300 ∧ (tag.toNat ≤ 125 ↔ tag = 125) := by decide +kernel

/-! ### Hypotheses that are met: the Hold Queue and releases -/

theorem test_met_HoldExpires :
    let s := { holding [heldRead] bothUp with timebase := 1000 }
    heldUnder 1 s = some heldRead ∧ heldRead.state = .held 1000 ∧
      Reached s.timebase 1000 ∧ ¬Reached 999 1000 ∧ s.hold.release = none ∧
      (let t := { releaseIs .lookup bothUp with timebase := 1000 }
       heldUnder 1 t = some heldRead ∧
         ∃ r, t.hold.release = some r ∧ r.record.id = 1 ∧ r.phase ≠ .waiting) ∧
      ∀ h ∈ s.hold.slots, h.id = 2 → ∀ d, h.state ≠ .held d := by
  refine ⟨by decide +kernel, rfl, by decide +kernel, by decide +kernel, rfl,
    ⟨by decide +kernel, _, rfl, by decide +kernel, by decide +kernel⟩, fun h m i => ?_⟩
  have : h = heldRead := by simpa [holding] using m
  subst this; exact absurd i (by decide)

theorem test_met_DiscardRefusesHeldRequest :
    Carries .discard 9 [0, 0] (holding [heldRead] bothUp) ∧ byteAt [0, 0] 0 = 0 ∧
    Carries .discard 9 [1, 0] (holding [heldRead] bothUp) ∧ byteAt [1, 0] 0 ≠ 0 ∧
    heldUnder (byteAt [1, 0] 0) (command 9 [1, 0] (holding [heldRead] bothUp)) = some heldRead ∧
    Carries .discard 9 [1, 0] bothUp ∧
    ∀ h ∈ (command 9 [1, 0] bothUp).hold.slots, h.id = byteAt [1, 0] 0 → ∀ d, h.state ≠ .held d := by
  unfold Carries Takes
  decide +kernel

/-- A release of the READ above that waits for the posted writes up to a mark. -/
def waitingRelease (mark : Option Nat) (s : State) : State :=
  { releaseIs .waiting s with
    hold := { slots := [heldRead], lastId := 1, release := some ⟨heldRead, mark, .waiting, true⟩ } }

theorem test_met_ReleaseBegins :
    Carries .release 8 [0, 0] (holding [heldRead] bothUp) ∧ byteAt [0, 0] 0 = 0 ∧
    Carries .release 8 [1, 0] (holding [heldRead] bothUp) ∧ byteAt [1, 0] 0 ≠ 0 ∧
    heldUnder (byteAt [1, 0] 0) (command 8 [1, 0] (holding [heldRead] bothUp)) = some heldRead ∧
    Carries .release 8 [1, 0] bothUp ∧
    ∀ h ∈ bothUp.hold.slots, h.id = byteAt [1, 0] 0 → ∀ d, h.state ≠ .held d := by
  unfold Carries Takes
  decide +kernel

theorem test_met_ReleaseWaits :
    (∀ st ∈ [LinkState.up, .retraining], ∀ mark ∈ [none, some 0],
      let s := waitingRelease mark (linkIs .u st (arrived .u .p writeReq bothUp))
      s.hold.release = some ⟨heldRead, mark, .waiting, true⟩ ∧ heldRead ∈ s.hold.slots ∧
        heldRead.state = .held 1000 ∧ (s.port .u).state = st ∧
        ((∀ m, mark = some m → ∀ k ∈ (s.port .u).ingress.p, m < k.stamp) ↔ mark = none)) ∧
    (∀ slots delivers, (releaseIn slots delivers .waiting bothUp).hold.release =
      some ⟨heldRead, none, .waiting, delivers⟩) ∧
    heldRead ∉ ({ waitingRelease none bothUp with hold :=
      { (waitingRelease none bothUp).hold with slots := [] } } : State).hold.slots := by
  refine ⟨fun st h mark h' => ⟨rfl, List.mem_singleton.2 rfl, rfl, ?_, ?_⟩, fun _ _ => rfl,
    by decide +kernel⟩
  · revert st mark; decide +kernel
  · simp only [List.mem_cons, List.not_mem_nil, or_false] at h'
    rcases h' with rfl | rfl
    · simp
    · simp [waitingRelease, releaseIs, releaseIn, linkIs, arrived, withPort, queueing, State.port,
        Duo.get, Duo.set, Trio.set]

/-- A release in steps whose record stands, whatever command it belongs to: a single RELEASE, a batch with
members left, a batch at its last, or none after a port-down of U. -/
def releasing (phase : ReleasePhase) (s : State) : Prop :=
  ∀ slots delivers, Releasing phase heldRead none delivers (releaseIn slots delivers phase s)

theorem releasing_any (phase : ReleasePhase) (s : State) : releasing phase s :=
  fun _ _ => ⟨rfl, List.mem_singleton.2 rfl, 1000, rfl⟩

theorem test_met_ReleaseIsDecided :
    (∀ s, releasing .lookup s) ∧
    (∀ e ∈ [window, windowTo .refuse, windowTo .hold, { windowTo .refuse with base := 0x2000 }],
      ¬InAperture .u readReq (releaseIs .lookup (withEntries [e] bothUp))) ∧
    InAperture .u readReq (releaseIs .lookup
      { bothUp with mgmt := { bothUp.mgmt with apertureBase := 0 } }) ∧
    (let ruling := fun e (s : State) => ((releaseIs .lookup (withEntries [e] s)).lookup true
       ⟨.u, 3, .read, 0x1000, 64⟩).ruling
     ruling window bothUp = .steer .forward .d 4 0x8000 20000 ∧
       (releaseIs .lookup (withEntries [window] bothUp) |>.port .d).state = .up ∧
       (releaseIs .lookup (withEntries [window] (linkIs .d .faulted bothUp)) |>.port .d).state ≠ .up ∧
       ruling (windowTo .refuse) bothUp = .refuse false ∧
       ruling { windowTo .refuse with base := 0x1020 } bothUp = .boundary ∧
       ruling (windowTo .hold) bothUp = .defaultRefuse) := by
  unfold InAperture
  exact ⟨releasing_any _, by decide +kernel⟩

theorem test_met_ReleasedRequestIsOffered :
    (∀ phase s, releasing phase s) ∧ forwarded.ruling = .steer .forward .d 4 0x8000 20000 ∧
    (let s := releaseIs (.pOffer forwarded) bothUp
     forwarded.generation = s.steering.generation ∧ TakesOffer .d .p s ∧
       s.tracker.free = 0 :: s.tracker.free.tail) ∧
    (let s := releaseIs (.pOffer forwarded)
       { bothUp with steering := { bothUp.steering with generation := 1 } }
     forwarded.generation ≠ s.steering.generation ∧ s.tracker.free ≠ []) ∧
    RefusesAsFull .d .p (releaseIs (.pOffer forwarded) (filled .d .p bothUp)) ∧
    RefusesAsDown .d (releaseIs (.pOffer forwarded) (linkIs .d .faulted bothUp)) ∧
    (releaseIs (.allocate forwarded) { bothUp with tracker := ⟨[], [], []⟩ }).tracker.free = [] := by
  refine ⟨releasing_any, ?_⟩
  unfold TakesOffer RefusesAsFull RefusesAsDown; decide +kernel

theorem test_met_ReleasedRequestIsPlaced :
    (∀ phase s, releasing phase s) ∧ awaiting.kind ≠ .fence ∧
    (let phase := ReleasePhase.place forwarded awaiting
     let s := releaseIs phase (tracked [awaiting] bothUp)
     entryUnder awaiting.tag s = some awaiting ∧ TakesOffer .d .n s ∧
       (let t := releaseIs phase (filled .d .n (tracked [awaiting] bothUp))
        entryUnder awaiting.tag t = some awaiting ∧ RefusesAsFull .d .n t) ∧
       RefusesAsDown .d (releaseIs phase (linkIs .d .faulted bothUp)) ∧
       (let t := releaseIs phase bothUp
        ¬RefusesAsDown .d t ∧ entryUnder awaiting.tag t ≠ some awaiting)) := by
  refine ⟨releasing_any, ?_⟩
  unfold TakesOffer RefusesAsFull RefusesAsDown; decide +kernel

/-! ### Hypotheses that are met: commands -/

theorem test_met_NopOnlyAnswers : Carries .nop 0 [] bothUp := by
  unfold Carries Takes; decide +kernel

theorem test_met_ManagersAndApertureAreSet :
    let locked := { bothUp with mgmt := { bothUp.mgmt with locked := true } }
    let pending := { bothUp with mgmt := { bothUp.mgmt with pendingBase := some 0x10000 } }
    Carries .setManagers 12 [1, 0, 0, 0] locked ∧ Carries .setManagers 12 [0, 0, 0, 0] bothUp ∧
    Carries .setManagers 12 [1, 0, 0, 0] bothUp ∧ bothUp.mgmt.locked = false ∧
    field [0, 0, 0, 0] 0 4 = 0 ∧ field [1, 0, 0, 0] 0 4 = 1 ∧ Carries .lockManagers 13 [] bothUp ∧
    Carries .setAperture 11 [0, 1, 0, 0, 0, 0, 0, 0] bothUp ∧ field [0, 1, 0, 0, 0, 0, 0, 0] 0 6 = 0x100 ∧
    Carries .setAperture 11 [0, 0, 0xFF, 0xFF, 0xFF, 0xFF, 0, 0] bothUp ∧
    field [0, 0, 0xFF, 0xFF, 0xFF, 0xFF, 0, 0] 0 6 + 0x10000 = 2 ^ 48 ∧
    Carries .setAperture 11 [0, 0, 0, 0, 0xF0, 0xFF, 0, 0] bothUp ∧
    Carries .setAperture 11 [0, 0, 0, 0, 0xF0, 0xFF, 0, 0] pending ∧
    BitVec.ofNat 48 (field [0, 0, 0, 0, 0xF0, 0xFF, 0, 0] 0 6) = bothUp.mgmt.apertureBase ∧
    bothUp.mgmt.pendingBase = none ∧ pending.mgmt.pendingBase ≠ none := by
  unfold Carries Takes; dsimp only
  constructorm* _ ∧ _ <;> decide +kernel

/-- The image of the window above, its label given, as an INSERT of it at a position carries it. -/
def insertWindow (position : Nat) (label : Byte) : List Byte :=
  toLE 2 position ++ entryImage { window with label := label.setWidth 16 }

/-- Entries of the labels 100 on. -/
def entriesOf (count : Nat) : List Entry :=
  (List.range count).map fun i => { window with label := BitVec.ofNat 16 (100 + i) }

/-- The codes at the ends of their lists, and the codes beside them. -/
theorem test_met_Codes :
    (ArrivalCode 1 .u ∧ ArrivalCode 3 .both ∧ (∀ a, ¬ArrivalCode 0 a) ∧ ∀ a, ¬ArrivalCode 4 a) ∧
    (KindsCode 1 .reads ∧ KindsCode 3 .all ∧ (∀ k, ¬KindsCode 0 k) ∧ ∀ k, ¬KindsCode 4 k) ∧
    ActionCode 1 .forward ∧ ActionCode 4 .hold ∧ (∀ a, ¬ActionCode 0 a) ∧ ∀ a, ¬ActionCode 5 a := by
  simp only [arrivalCode_iff, kindsCode_iff, actionCode_iff]
  constructorm* _ ∧ _ <;> first | decide | (intro x; cases x <;> decide)

theorem test_met_EntryIsInserted :
    (Carries .insert 1 ([0, 0] ++ List.replicate 40 0) bothUp ∧
      ∀ a, ¬ArrivalCode (byteAt (([0, 0] ++ List.replicate 40 0 : List Byte).drop 2) 2) a) ∧
    (∀ position ∈ [0, 1, 2, 64, 65], ∀ count ∈ [0, 1, 63, 64],
      let s := { bothUp with steering := { bothUp.steering with staging := entriesOf count } }
      Carries .insert 1 (insertWindow position 7) s ∧ s.steering.staging.length = count ∧
        field (insertWindow position 7) 0 2 = position ∧
        (∀ f ∈ s.steering.staging, f.label ≠ 7)) ∧
    (∀ label ∈ [(0 : Byte), 7, 100],
      let img := (insertWindow 0 label).drop 2
      ArrivalCode (byteAt img 2) .u ∧ KindsCode (byteAt img 3) .all ∧
        ActionCode (byteAt img 14) .forward ∧ PresenceAllowed img ∧
        imageEntry img .u .all .forward = { window with label := label.setWidth 16 }) ∧
    ¬PresenceAllowed (List.replicate 40 0xFF) ∧
    ValidEntry bothUp.mgmt.params.unit window ∧
    ¬ValidEntry bothUp.mgmt.params.unit { window with label := 0 } ∧
    ∃ f ∈ entriesOf 1, f.label = 100 := by
  simp only [validEntry_iff, arrivalCode_iff, kindsCode_iff, actionCode_iff, presenceAllowed_iff]
  unfold Carries Takes
  constructorm* _ ∧ _ <;> first | decide +kernel | (intro x; cases x <;> decide)

theorem test_met_EntryIsRemovedOrMoved :
    let two := [{ window with label := 20 }, { window with label := 10, pinned := true }]
    let s := withEntries two bothUp
    (∀ label ∈ [0, 5, 10, 20], Carries .remove 2 (toLE 2 label) s) ∧
    (∀ label ∈ [0, 5, 10, 20], ∀ position ∈ [0, 1, 2, 63, 64],
      let body := toLE 2 label ++ toLE 2 position
      Carries .move 4 body s ∧ field body 0 2 = label ∧ field body 2 2 = position) ∧
    (∀ f ∈ s.steering.staging, f.label ≠ 5) ∧ (∃ f ∈ s.steering.staging, f.label = 20) ∧
    s.steering.staging.find? (fun f => f.label = 20) = some { window with label := 20 } ∧
    PinnedLabel 10 s ∧ ¬PinnedLabel 20 s ∧ s.steering.staging.length = 2 ∧
    Carries .clearStaging 5 [] s := by
  simp only [pinnedLabel_iff]; unfold Carries Takes; constructorm* _ ∧ _ <;> decide +kernel

/-- A MODIFY of a label that selects the base alone. -/
def modifyBase (label : Nat) (base : List Byte) : List Byte :=
  toLE 2 label ++ [8, 0] ++ List.replicate 8 0 ++ base ++ List.replicate 26 0

theorem test_met_EntryIsModified :
    let two := [{ window with label := 20 }, { window with label := 10, pinned := true }]
    let s := withEntries two bothUp
    let good := [0, 0x20, 0, 0, 0, 0]
    (∀ label ∈ [0, 5, 10, 20],
      Carries .modify 3 (modifyBase label good) s ∧
        SelectionAllowed 8 ((modifyBase label good).drop 4)) ∧
    Carries .modify 3 (modifyBase 20 [1, 0, 0, 0, 0, 0]) s ∧
    ¬SelectionAllowed 8 ((modifyBase 20 [1, 0, 0, 0, 0, 0]).drop 4) ∧
    ¬SelectionAllowed 0 ((modifyBase 20 good).drop 4) ∧
    ¬SelectionAllowed 0x1000 ((modifyBase 20 good).drop 4) ∧
    SelectionAllowed 0xFFF (entryImage window) ∧
    (∀ f ∈ s.steering.staging, f.label ≠ 5) ∧
    s.steering.staging.find? (fun f => f.label = 20) = some { window with label := 20 } ∧
    PinnedLabel 10 s ∧ ¬PinnedLabel 20 s ∧
    (∀ action ∈ [Action.forward, .reflect, .refuse, .hold],
      ((8 : BitVec 16).getLsbD 5 = true → ActionCode 0 action)) ∧
    ValidEntry s.mgmt.params.unit { window with label := 20, base := 0x2000 } ∧
    Carries .modify 3 (modifyBase 20 [0, 0xF0, 0xFF, 0xFF, 0xFF, 0xFF])
      (withEntries [{ window with label := 20, size := 0x2000 }] bothUp) ∧
    ¬ValidEntry s.mgmt.params.unit
      { window with label := 20, size := 0x2000, base := 0xFFFFFFFFF000 } := by
  have allowed : ∀ sel img, SelectionAllowed sel img ↔ editOfImage sel img ≠ none := fun sel img => by
    rw [ne_eq, ← selectionAllowed_iff, not_not]
  simp only [pinnedLabel_iff, validEntry_iff, allowed, actionCode_iff]; unfold Carries Takes
  constructorm* _ ∧ _ <;> decide +kernel

/-- The ends of the ranges of R87, check 1: an image whose times stand there is allowed, and one beside it
is not. -/
theorem test_met_SelectionAllowed :
    let timed := fun (bit : Nat) (offset : Nat) (t : Nat) => SelectionAllowed (BitVec.ofNat 16 (2 ^ bit))
      (List.replicate 15 0 ++ [6] ++ List.replicate (offset - 16) 0 ++ toLE 4 t ++ List.replicate 4 0)
    (timed 8 32 100 ∧ timed 8 32 2000000 ∧ ¬timed 8 32 99 ∧ ¬timed 8 32 2000001) ∧
    timed 9 36 10 ∧ timed 9 36 1000000 ∧ ¬timed 9 36 9 ∧ ¬timed 9 36 1000001 := by
  have allowed : ∀ sel img, SelectionAllowed sel img ↔ editOfImage sel img ≠ none := fun sel img => by
    rw [ne_eq, ← selectionAllowed_iff, not_not]
  simp only [allowed]
  decide +kernel

/-- A drain is in progress. -/
def draining (s : State) : State :=
  { s with
    steering := { s.steering with generation := 1 }
    commit := { s.commit with state := .draining, remaining := s.tracker.entries.length } }

theorem test_met_CommitIsTaken :
    Carries .commit 6 [] (draining (tracked [awaiting] bothUp)) ∧
    (draining (tracked [awaiting] bothUp)).commit.state = .draining ∧
    (∀ tag ∈ [126, 127],
      let s := { bothUp with tracker := ⟨[], [], [⟨BitVec.ofNat 7 tag, 5⟩]⟩ }
      Carries .commit 6 [] s ∧ s.commit.state = .idle ∧
        ∃ m ∈ s.tracker.cooling, m.tag = 126 ∨ m.tag = 127) ∧
    (let s := withPort .d { linkUp with fenceSlot := some ⟨fenceReq, 0⟩ } bothUp
     Carries .commit 6 [] s ∧ (s.port .d).fenceSlot ≠ none) ∧
    (∀ s ∈ [bothUp, State.reset, linkIs .d .retraining bothUp, tracked [awaiting] State.reset],
      Carries .commit 6 [] s ∧ s.commit.state = .idle ∧
        ¬((∃ m ∈ s.tracker.cooling, m.tag = 126 ∨ m.tag = 127) ∨
          (s.port .u).fenceSlot ≠ none ∨ (s.port .d).fenceSlot ≠ none)) := by
  unfold Carries Takes; dsimp only
  constructorm* _ ∧ _ <;> decide +kernel

theorem test_met_DrainIsForced :
    let s := draining (tracked [awaiting, { awaiting with tag := 6, state := .orphaned },
      { awaiting with tag := 7, state := .closing .timeout 0 }, fenceOfU] bothUp)
    Carries .forceDrain 7 [] bothUp ∧ bothUp.commit.state = .idle ∧ Carries .forceDrain 7 [] s ∧
      s.commit.state = .draining ∧
      Carries .forceDrain 7 [] (draining (tracked [fenceOfU] bothUp)) := by
  unfold Carries Takes; decide +kernel

/-- A SET_PARAM of a code with its value bytes. -/
def setParamBody (code : Nat) (value : List Byte) : List Byte :=
  padTo 10 (toLE 2 code ++ value)

theorem test_met_ParameterIsSet :
    let s := withEntries [window] bothUp
    let limits := [9, 10, 99, 100, 1000000, 1000001, 2000000, 2000001]
    (∀ code ∈ List.range 11,
      ∀ value ∈ limits.map (toLE 4) ++ [[], [0], [1], [2, 31], [2, 6], [3], [30], [4], [31], [2, 10], [3, 10],
          [0x10], [0x20, 0, 0, 0, 0, 0, 7, 2], [0, 0, 0, 0, 0, 0, 31, 1], [0, 0, 0, 0, 0, 0, 7, 1]],
        Carries .setParam 10 (setParamBody code value) s ∧
          (byteAt (setParamBody code value) 0).toNat = code) ∧
    (∀ t ∈ limits, field (setParamBody 1 (toLE 4 t)) 2 4 = t) ∧
    (byteAt (setParamBody 3 [2, 31]) 2 = 2 ∧
      BitVec.ofNat 5 (field (setParamBody 3 [2, 31]) 3 1) = s.mgmt.params.unit.get .d) ∧
    (byteAt (setParamBody 4 [1]) 2 = 1 ∧ s.steering.defaults.get .d = .refuse ∧
      DefaultAction.refuse ≠ .pass (s.mgmt.params.unit.get .u)) ∧
    (byteAt (setParamBody 3 [2, 6]) 2 = 2 ∧ s.steering.defaults.get .u ≠ .pass 6 ∧
      (6 : UnitNo) ≠ s.mgmt.params.unit.get .d) := by
  unfold Carries Takes; constructorm* _ ∧ _ <;> decide +kernel

/-- The values of a notice target, a bridge unit and a link preference at which the clauses part. -/
theorem test_met_UnitsAreSet :
    let s := withEntries [window] bothUp
    let body := fun code value => setParamBody code value
    (field (body 5 [0x10]) 2 6 % 32 ≠ 0 ∧ byteAt (body 5 [0x20, 0, 0, 0, 0, 0, 7, 2]) 9 = 2 ∧
      BitVec.ofNat 5 (field (body 5 [0, 0, 0, 0, 0, 0, 31, 1]) 8 1) = s.mgmt.params.unit.u ∧
      field (body 5 [0, 0, 0, 0, 0, 0, 7, 1]) 2 6 % 32 = 0 ∧
      byteAt (body 5 [0, 0, 0, 0, 0, 0, 7, 1]) 9 = 1 ∧
      BitVec.ofNat 5 (field (body 5 [0, 0, 0, 0, 0, 0, 7, 1]) 8 1) ≠ s.mgmt.params.unit.u) ∧
    (BitVec.ofNat 5 (field (body 6 [31]) 2 1) = s.mgmt.params.unit.get .u ∧
      BitVec.ofNat 5 (field (body 7 [4]) 2 1) = (4 : UnitNo) ∧
      window.target = some 4 ∧ LeavesBy window .d ∧ s.mgmt.params.unit.get .d ≠ 4 ∧
      ¬((∃ a ∈ s.steering.active, a.entry.target = some 30 ∧ LeavesBy a.entry .d) ∨
        (∃ e ∈ s.steering.staging, e.target = some 30 ∧ LeavesBy e .d) ∨
        s.steering.defaults.get .u = .pass 30 ∨ Port.d = .u ∧ s.mgmt.params.noticeTarget.unit = 30)) ∧
    Offers ⟨.x2, .g10⟩ (byteAt (body 8 [2, 10]) 2) (byteAt (body 8 [2, 10]) 3) ∧
    ∀ o, ¬Offers o (byteAt (body 9 [3, 10]) 2) (byteAt (body 9 [3, 10]) 3) := by
  refine ⟨by decide +kernel, ?_, test_met_Offers.1, test_met_Offers.2.1⟩
  simp only [← mem_egressPorts_iff]; decide +kernel

theorem test_met_HeadAccessIsTurnedAway :
    let few := { bothUp with mgmt := { bothUp.mgmt with managers := 3 } }
    let access := fun kind offset length =>
      { commandSlot [] with kind := kind, offset := offset, length := length }
    (let s := queueing [access .read 0x1000 16] few
     s.hold.release = none ∧ s.mgmt.managers.getLsbD (access .read 0x1000 16).source.toNat = false) ∧
    (let slot := commandSlot [0, 1, 0, 0]
     let s := queueing [slot] bothUp
     s.hold.release = none ∧ slot.state = .waiting ∧
       s.mgmt.managers.getLsbD slot.source.toNat = true ∧ slot.kind = .writeAck ∧
       slot.offset + slot.length.toNat - 1 ≤ 0xFF ∧ ∀ code body, ¬BlockOf slot.payload code body) ∧
    (∀ slot ∈ [access .writeAck 0 257, access .writeAck 0x1000 4, access .read 0x107F 2,
        access .read 0x4000 31, access .read 0x5200 1],
      let o := slot.offset
      let last := slot.offset + slot.length.toNat - 1
      let within := fun (a b : Nat) => a ≤ o ∧ last ≤ b
      slot.state = .waiting ∧ bothUp.mgmt.managers.getLsbD slot.source.toNat = true ∧
        ¬(slot.kind = .writeAck ∧ within 0 0xFF) ∧
        ¬(slot.kind = .read ∧ (within 0x1000 0x107F ∨ within 0x2000 0x2FFF ∨
          within 0x3000 0x3FFF ∨ within 0x5000 0x51FF ∨ o = 0x4000 ∧ slot.length = 32))) := by
  simp only [no_blockOf_iff]; decide +kernel

/-- Bodies of a BATCH: NOPs, and bytes behind them that make no block. -/
theorem test_met_BatchIsParsed :
    (∀ count ∈ [0, 1, 15, 16],
      (List.replicate count (block 0 [])).map parseBlock =
        (List.replicate count ((.nop, []) : CommandCode × List Byte)).map some) ∧
    (∀ n, parseBlock (([17, 0, 0, 0] : List Byte).take n) = none) ∧ ([17, 0, 0, 0] : List Byte) ≠ [] := by
  refine ⟨by decide +kernel, fun n => ?_, by decide⟩
  by_cases h : n < 4
  · unfold parseBlock; rw [if_pos]; simp; omega
  · rw [List.take_of_length_le (by simp; omega)]; decide

theorem test_met_BatchIsCarriedOut :
    Carries .batch 16 [] bothUp ∧ parseMembers [] = .failed 1 ∧
    Carries .batch 16 (block 0 []) bothUp ∧ parseMembers (block 0 []) = .parsed [(.nop, [])] ∧
    (let run : BatchRun := ⟨[(.nop, []), (.remove, [0, 0])], 1, ⟨.done, 0⟩⟩
     let slot := { commandSlot [] with state := .executingBatch run }
     let s := queueing [slot] bothUp
     s.hold.release = none ∧ s.mgmt.queue = slot :: [] ∧
       run.todo = (.nop, []) :: [(.remove, [0, 0])]) ∧
    (∀ s, runMember .nop [] true s = .finished ⟨.done, 0⟩ s) ∧
    (∀ s, runMember .nop [] false s = .finished ⟨.done, 0⟩ s) ∧
    (∀ s, runMember .remove [0, 0] true s = .finished ⟨.badField, 0⟩ s) ∧
    (∃ t, runMember .release [1, 0] true (holding [heldRead] bothUp) = .suspended t) ∧
    Carries .insert 1 (insertWindow 0 7) bothUp ∧ Carries .commit 6 [] bothUp := by
  unfold Carries Takes; dsimp only
  constructorm* _ ∧ _ <;> first | exact fun _ => rfl | exact ⟨_, rfl⟩ | decide +kernel

/-! ### Hypotheses that are met: replies of accesses, warm reset and notices -/

theorem test_met_AccessIsReplied :
    let reply := { commandSlot [] with state := .answerReady ⟨.ok, [0], false⟩ }
    let area := { commandSlot [] with kind := .read, offset := 0x1000, length := 128 }
    let aborting := { commandSlot [] with state := .aborting }
    ∀ slot ∈ [reply, area, aborting], ∀ full ∈ [true, false],
      let s := queueing [slot] (if full then filled .u .c bothUp else bothUp)
      s.mgmt.queue = slot :: [] ∧ (TakesOffer .u .c s ↔ full = false) ∧ s.hold.release = none ∧
        s.mgmt.managers.getLsbD slot.source.toNat = true ∧
        areaFirst .status ≤ area.offset ∧
        area.offset + area.length.toNat - 1 ≤ areaLast .status := by
  unfold TakesOffer; decide +kernel

/-- Each area is served from its first offset to its last, and neither before nor past them. -/
theorem test_areas :
    ∀ a ∈ [Area.status, .active, .staging, .hold],
      areaOf (areaFirst a) (areaLast a + 1 - areaFirst a) = some a ∧
        areaOf (areaFirst a - 1) 2 = none ∧ areaOf (areaLast a) 2 = none := by decide

theorem test_met_AreaReadGivesRecords :
    ∀ area ∈ [Area.status, .active, .staging, .hold],
      (areaFirst area ≤ areaFirst area ∧ areaFirst area + 0 ≤ areaLast area + 1) ∧
        (areaFirst area ≤ areaLast area - 63 ∧ areaLast area - 63 + 64 ≤ areaLast area + 1) := by
  decide

theorem test_met_WarmResetIsPerformed :
    Carries .warmReset 15 [] bothUp ∧
    ∀ full ∈ [true, false],
      let slot := { commandSlot [] with state := .answerReady ⟨.ok, [0], true⟩ }
      let s := queueing [slot, commandSlot []] (draining (tracked [awaiting, fenceOfU]
        (holding [heldRead] (if full then filled .u .c bothUp else bothUp))))
      s.mgmt.queue = slot :: [commandSlot []] ∧ (TakesOffer .u .c s ↔ full = false) ∧
        s.commit.state = .draining := by
  unfold Carries Takes TakesOffer; decide +kernel

/-- A notice queue that holds records without content. -/
def noticesOf (count : Nat) (s : State) : State :=
  { s with notices := ⟨List.replicate count ⟨⟨.timeout, none, 0, 0, 0, 0, 0, 0⟩, 0, 0, 0⟩, 0, 254⟩ }

theorem test_met_NoticeIsAcceptedOrDropped :
    (noticesOf 31 bothUp).notices.queue.length < 32 ∧
      32 ≤ (noticesOf 32 bothUp).notices.queue.length ∧
      (noticesOf 32 bothUp).notices.dropped < 255 := by decide +kernel

theorem test_met_NoticeLeaves :
    let slot := { commandSlot [] with kind := .read, offset := 0x4000, length := 32 }
    (∀ st ∈ [SlotState.waiting, .popping], ∀ full ∈ [true, false], ∀ count ∈ [0, 1],
      let s := queueing [{ slot with state := st }]
        (noticesOf count (if full then filled .u .c bothUp else bothUp))
      s.hold.release = none ∧ s.mgmt.managers.getLsbD slot.source.toNat = true ∧
        (TakesOffer .u .c s ↔ full = false) ∧ s.notices.queue.length = count) ∧
    ∀ full ∈ [true, false],
      let s := noticesOf 1 (if full then filled .u .p bothUp else bothUp)
      let t := { s with mgmt := { s.mgmt with
        params := { s.mgmt.params with noticeTarget := ⟨0, 0, true⟩ } } }
      t.mgmt.params.noticeTarget.enable = true ∧ (t.port .u).state = .up ∧
        t.notices.queue = ⟨⟨.timeout, none, 0, 0, 0, 0, 0, 0⟩, 0, 0, 0⟩ :: [] ∧
        (TakesOffer .u .p t ↔ full = false) ∧ s.mgmt.params.noticeTarget.enable = false := by
  unfold TakesOffer; decide +kernel

/-! ### Hypotheses that are met: the lookup, encodings and laws -/

theorem test_met_FirstCandidateDecides :
    let r : Request := ⟨.u, 3, .read, 0x1000, 64⟩
    (∀ e ∈ [window, { window with action := .reflect }, windowTo .refuse, windowTo .hold],
      Candidate false r e ∧ Contained r e) ∧
    (let e := { window with base := 0x1020 }
     Candidate false r e ∧ ¬Contained r e ∧ Overlaps r e) ∧
    PassedOver false r { window with base := 0x1040 } ∧ PassedOver false r { window with arrival := .d } ∧
    PassedOver true r (windowTo .hold) ∧
    (withEntries [{ window with arrival := .d }, window] bothUp).steering.active =
      [⟨{ window with arrival := .d }, 0, 0⟩] ++ ⟨window, 0, 0⟩ :: [] ∧
    bothUp.steering.defaults.get .u = .refuse ∧ example19.steering.defaults.get .d = .pass 0 := by
  unfold PassedOver Candidate Contained Overlaps; dsimp only
  constructorm* _ ∧ _ <;> decide +kernel

theorem test_met_SentPacketsReadBack :
    (∀ pkt ∈ [readReq, writeReq, fenceReq, shortReply 31 3 5 .ok,
      { writeReq with kind := .writeAck, length := 256, payload := List.replicate 256 0 }],
      PacketAllowed pkt) ∧
    ReadsAs [0x10, 1, 2, 3, 7] (.speed 2 3 7) ∧ ReadsAs [0x10, 3] .ready ∧
    ReadsAs (packetBytes readReq 5) (.traffic readReq 5) ∧
    (∀ body f, ([0x10, 3] : List Byte) = sealed body → ¬ReadsAs body f) ∧
    (255 < 256 ∧ 0 < 256) := by
  refine ⟨fun pkt h => ⟨fun code => ?_, ?_⟩, by simp only [ReadsAs]; decide,
    by simp only [ReadsAs]; decide, ⟨by decide, nofun, by decide +kernel⟩, fun body f h => ?_, by decide⟩
  case refine_3 => have := congrArg List.length h; simp [sealed] at this
  · simp only [List.mem_cons, List.not_mem_nil, or_false] at h
    rcases h with rfl | rfl | rfl | rfl | rfl <;> exact fun h => nomatch h
  · revert pkt; decide +kernel

theorem test_met_EntryImageReadsBack :
    ∀ e ∈ [window, { windowTo .refuse with notify := some false, pinned := true },
        { windowTo .hold with holdLimit := some 10 },
        { window with replyTimeout := some 2000000, base := 0xFFFFFFFFF000 }],
      ValidEntry ⟨31, 31⟩ e := by
  simp only [validEntry_iff]; decide +kernel

/-- A drain with a tag in use of each generation, a tag cooling, and a fence of port U. -/
def busyTracker : State :=
  { bothUp with
    steering := { bothUp.steering with generation := 1 }
    tracker :=
      { entries := [awaiting, { awaiting with tag := 6, generation := 1 }, fenceOfU]
        free := ((List.range 126).filter fun i => i ≠ 5 ∧ i ≠ 6 ∧ i ≠ 7).map (BitVec.ofNat 7)
        cooling := [⟨7, 100⟩] }
    commit := { bothUp.commit with state := .draining, remaining := 2 } }

theorem test_met_TrackerLawsAreKept :
    TrackerLaws busyTracker ∧ ∃ t, step busyTracker = .next t :=
  ⟨{ free_nodup := by decide +kernel
     cooling_nodup := List.nodup_singleton _
     entries_nodup := by decide
     free_traffic := by decide +kernel
     free_not_cooling := by decide +kernel
     free_not_used := by decide +kernel
     cooling_not_used := by decide
     somewhere := by decide +kernel
     fences := by decide +kernel
     others := by decide +kernel
     placing := fun p _ _ h => by cases p <;> cases h
     releasing := fun _ _ _ h => nomatch h
     generations := by decide +kernel
     drain_generation := fun _ => rfl
     remaining := fun _ => rfl
     goes_on := by decide +kernel }, _, rfl⟩

/-- Both lists hold a pinned entry and one that is not. -/
def twoEntries : State :=
  withEntries [window, { windowTo .hold with label := 8, pinned := true }] bothUp

theorem test_met_ListLawsAreKept :
    ListLaws twoEntries ∧ ∃ t, step { twoEntries with pending := [.nop] } = .next t := by
  have valid : ∀ e ∈ twoEntries.steering.staging, ValidEntry twoEntries.mgmt.params.unit e := by
    simp only [validEntry_iff]; decide +kernel
  exact
    ⟨{ staging_size := by decide
       active_size := by decide
       staging_labels := by decide
       active_labels := by decide
       staging_valid := valid
       active_valid := fun a h => valid a.entry (by revert a; decide)
       pinned_staged := List.filter_sublist
       default_unit := fun p => by cases p <;> decide
       notice_unit := by decide }, _, rfl⟩

/-- A port UP with a packet in every queue and one unacknowledged. -/
def busyPort : LinkPort :=
  { linkUp with
    ingress := ⟨[⟨writeReq, 0, false⟩], [⟨readReq, 1, false⟩], []⟩, nextArrival := 2
    transmit := ⟨[⟨writeReq, 0⟩, ⟨writeReq, 2⟩], [⟨readReq, 1⟩], []⟩
    fenceSlot := some ⟨fenceReq, 3⟩, nextStamp := 4, replayStore := [⟨0, readReq⟩], txNext := 1
    replayLeft := [0], rounds := 4, ackDeadline := some 1000 }

/-- Both ports as above. -/
def busyPorts : State := { bothUp with ports := ⟨busyPort, busyPort⟩ }

theorem test_met_PortLawsAreKept :
    (∀ p, PortLaws p (busyPorts.port p)) ∧
      ∃ t, step { busyPorts with pending := [.nop] } = .next t := by
  refine ⟨fun p => ?_, _, rfl⟩
  have h : busyPorts.port p = busyPort := by cases p <;> rfl
  rw [h]
  exact
    { ingress_size := fun ch => by cases ch <;> decide
      transmit_size := fun ch => by cases ch <;> decide
      store_size := by decide
      ingress_stamps := fun ch => by cases ch <;> decide
      transmit_stamps := fun ch => by cases ch <;> decide
      fence_stamp := fun k h => by cases h; decide
      attempt_new := ⟨nofun, fun ⟨_, h, _⟩ => nomatch h⟩
      attempt_resume := ⟨nofun, fun ⟨_, h, _⟩ => nomatch h⟩
      attempts_bound := by decide
      down_empty := by decide
      rounds_bound := by decide
      deadline := by decide
      replay_held := by decide
      hold_off := by cases p <;> decide }

/-- Every queue of the Management Unit, the Hold Queue and the Notice Unit is in use. -/
def busyQueues : State :=
  { releaseIs .lookup bothUp with
    notices := ⟨[⟨⟨.timeout, none, 0, 0, 0, 0, 0, 0⟩, 0xFFFF, 0, 255⟩], 0, 255⟩ }

theorem test_met_QueueLawsAreKept :
    QueueLaws busyQueues ∧ ∃ t, step { busyQueues with pending := [.nop] } = .next t := by
  refine ⟨?_, _, rfl⟩
  exact
    { hold_size := by decide
      hold_ids := by decide
      command_size := by decide
      command_states := by decide
      release_head := fun r _ _ => ⟨_, rfl, .inl rfl⟩
      head_release := fun k _ _ => ⟨_, rfl, rfl⟩
      notice_size := by decide
      notice_numbers := fun i n h => by
        match i with
        | 0 => cases h; decide
        | i + 1 => cases h
      managers := by decide
      aperture := ⟨by decide, fun _ h => nomatch h⟩ }

theorem test_met_PinnedEntriesAndLockLast :
    let s := { twoEntries with mgmt := { twoEntries.mgmt with locked := true } }
    ListLaws s ∧ (∀ strap, Instr.warmReset ≠ .coldReset strap) ∧ s.mgmt.locked = true ∧
      (∃ t, exec .warmReset s = .next t) ∧
      (s.steering.active.map (·.entry)).filter (·.pinned) ≠ [] := by
  refine ⟨?_, nofun, rfl, ⟨_, rfl⟩, by decide⟩
  have h := test_met_ListLawsAreKept.1
  exact ⟨h.1, h.2, h.3, h.4, h.5, h.6, h.7, h.8, h.9⟩

end Sys2Proof.Tests
end

section
/-! PROOFS. What every command can do to the two lists, the default actions, the bridge units and the manager
set: the laws of the lists are kept, and pinned Active entries and the manager lock last until a cold
reset. -/

namespace Sys2Proof

open Machine

/-! ### The part of the state that the laws of the lists speak of -/

/-- Both lists without the counts, and the settings that their laws and the manager lock tie together. -/
structure ListSettings where
  active : List Entry
  staging : List Entry
  defaults : Duo DefaultAction
  units : Duo UnitNo
  noticeUnit : UnitNo
  managers : UnitSet
  locked : Bool

/-- The lists and settings of a state. -/
def settings (s : State) : ListSettings where
  active := s.steering.active.map (·.entry)
  staging := s.steering.staging
  defaults := s.steering.defaults
  units := s.mgmt.params.unit
  noticeUnit := s.mgmt.params.noticeTarget.unit
  managers := s.mgmt.managers
  locked := s.mgmt.locked

/-- The laws of the lists, of the lists and settings alone. -/
structure ListSettings.Lawful (l : ListSettings) : Prop where
  staging_size : l.staging.length ≤ 64
  active_size : l.active.length ≤ 64
  staging_labels : (l.staging.map (·.label)).Nodup
  active_labels : (l.active.map (·.label)).Nodup
  staging_valid : ∀ e ∈ l.staging, ValidEntry l.units e
  active_valid : ∀ e ∈ l.active, ValidEntry l.units e
  pinned_staged : (l.active.filter (·.pinned)).Sublist l.staging
  default_unit : ∀ p, l.defaults.get p ≠ .pass (l.units.get (otherPort p))
  notice_unit : l.noticeUnit ≠ l.units.u

theorem listLaws_iff (s : State) : ListLaws s ↔ (settings s).Lawful := by
  have labels : s.steering.active.map (·.entry.label) =
      (s.steering.active.map (·.entry)).map (·.label) := by simp
  have valid : (∀ a ∈ s.steering.active, ValidEntry s.mgmt.params.unit a.entry) ↔
      ∀ e ∈ s.steering.active.map (·.entry), ValidEntry s.mgmt.params.unit e := by simp
  constructor
  · rintro ⟨stagingSize, activeSize, stagingLabels, activeLabels, stagingValid, activeValid,
      pinned, defaults, notice⟩
    exact ⟨stagingSize, by simpa [settings] using activeSize, stagingLabels, labels ▸ activeLabels,
      stagingValid, valid.1 activeValid, pinned, defaults, notice⟩
  · rintro ⟨stagingSize, activeSize, stagingLabels, activeLabels, stagingValid, activeValid,
      pinned, defaults, notice⟩
    exact ⟨stagingSize, by simpa [settings] using activeSize, stagingLabels, labels ▸ activeLabels,
      stagingValid, valid.2 activeValid, pinned, defaults, notice⟩

/-! ### What a command can do to the lists and settings -/

/-- No Active entry of the label is pinned (R90). -/
def ListSettings.Unpinned (l : ListSettings) (label : Label) : Prop :=
  ∀ e ∈ l.active, e.label = label → e.pinned = false

/-- One change of the lists and settings: a staging edit that passes its checks (R85 to R89), the swap (R93),
an accepted SET_PARAM (R123, R124), SET_MANAGERS without the lock, LOCK_MANAGERS (R115), or the warm
reset (R9). -/
inductive ListChange (l : ListSettings) : ListSettings → Prop where
  | insert (position : Nat) (e : Entry) (valid : ValidEntry l.units e)
      (new : ∀ f ∈ l.staging, f.label ≠ e.label) (room : l.staging.length < 64) :
      ListChange l { l with staging := placeAt position e l.staging }
  | remove (label : Label) (unpinned : l.Unpinned label) :
      ListChange l { l with staging := takeOut label l.staging }
  | modify (edit : EntryEdit) (e : Entry) (staged : e ∈ l.staging) (unpinned : l.Unpinned e.label)
      (valid : ValidEntry l.units (edit.apply e)) :
      ListChange l { l with
        staging := l.staging.map fun f => if f.label = e.label then edit.apply f else f }
  | move (position : Nat) (e : Entry) (staged : e ∈ l.staging) (unpinned : l.Unpinned e.label) :
      ListChange l { l with staging := placeAt position e (takeOut e.label l.staging) }
  | clearStaging : ListChange l { l with staging := l.active }
  | swap : ListChange l { l with active := l.staging }
  | default (p : Port) (a : DefaultAction) (allowed : a ≠ .pass (l.units.get (otherPort p))) :
      ListChange l { l with defaults := l.defaults.set p a }
  | noticeUnit (n : UnitNo) (allowed : n ≠ l.units.u) : ListChange l { l with noticeUnit := n }
  | unit (p : Port) (n : UnitNo) (active : ∀ e ∈ l.active, e.targets p n = false)
      (staging : ∀ e ∈ l.staging, e.targets p n = false)
      (defaults : l.defaults.get (otherPort p) ≠ .pass n) (notice : p = .u → l.noticeUnit ≠ n) :
      ListChange l { l with units := l.units.set p n }
  | managers (set : UnitSet) (free : l.locked = false) : ListChange l { l with managers := set }
  | lock : ListChange l { l with locked := true }
  | warmReset : ListChange l { l with
      active := l.active.filter (·.pinned), staging := l.active.filter (·.pinned)
      defaults := ⟨.refuse, .refuse⟩ }

/-- A run of such changes, as a batch can make. -/
abbrev ListChanges : ListSettings → ListSettings → Prop := Relation.ReflTransGen ListChange

/-! ### Each change keeps the laws -/

theorem placeAt_perm (position : Nat) (e : Entry) (l : List Entry) :
    (placeAt position e l).Perm (e :: l) := by
  unfold placeAt
  exact List.perm_middle.trans (by rw [List.take_append_drop])

theorem sublist_placeAt (position : Nat) (e : Entry) (l : List Entry) :
    l.Sublist (placeAt position e l) := by
  unfold placeAt
  conv_lhs => rw [← List.take_append_drop position l]
  exact (List.Sublist.refl _).append (List.sublist_cons_self _ _)

theorem takeOut_sublist (label : Label) (l : List Entry) : (takeOut label l).Sublist l :=
  List.filter_sublist

theorem takeOut_length_lt {e : Entry} {l : List Entry} (staged : e ∈ l) :
    (takeOut e.label l).length < l.length :=
  List.length_filter_lt_length_iff_exists.2 ⟨e, staged, by simp⟩

theorem label_ne_of_mem_takeOut {label : Label} {l : List Entry} :
    ∀ f ∈ takeOut label l, f.label ≠ label := by
  intro f mem
  simpa using (List.mem_filter.1 mem).2

/-- A change of a bridge unit that an entry does not target on the port keeps the entry valid. -/
theorem validEntry_setUnit {units : Duo UnitNo} {e : Entry} {p : Port} {n : UnitNo}
    (valid : ValidEntry units e) (free : e.targets p n = false) : ValidEntry (units.set p n) e := by
  obtain ⟨label, sources, window, target, translated, units_ok, rest⟩ := valid
  refine ⟨label, sources, window, target, translated, fun unit q targeted leaves => ?_, rest⟩
  rw [Duo.get_set]
  split
  · next same =>
    subst same
    rintro rfl
    have by_port : q ∈ e.egressPorts := (mem_egressPorts_iff _ _).2 leaves
    simp [Entry.targets, targeted, by_port] at free
  · exact units_ok unit q targeted leaves

namespace ListSettings.Lawful

variable {l : ListSettings}

/-- A valid entry with a new label may stand anywhere in the Staging List. -/
theorem placeAt (lawful : l.Lawful) (position : Nat) {e : Entry} (valid : ValidEntry l.units e)
    (new : ∀ f ∈ l.staging, f.label ≠ e.label) (room : l.staging.length < 64) :
    ({ l with staging := Machine.placeAt position e l.staging } : ListSettings).Lawful :=
  have perm := placeAt_perm position e l.staging
  { lawful with
    staging_size := by rw [perm.length_eq]; exact room
    staging_labels := by
      rw [(perm.map _).nodup_iff, List.map_cons, List.nodup_cons]
      exact ⟨by simpa using new, lawful.staging_labels⟩
    staging_valid := fun f mem => by
      rcases List.mem_cons.1 (perm.mem_iff.1 mem) with rfl | mem
      · exact valid
      · exact lawful.staging_valid f mem
    pinned_staged := lawful.pinned_staged.trans (sublist_placeAt _ _ _) }

/-- The pinned entries stay staged when an unpinned label is taken out. -/
theorem takeOut (lawful : l.Lawful) {label : Label} (unpinned : l.Unpinned label) :
    ({ l with staging := Machine.takeOut label l.staging } : ListSettings).Lawful :=
  have sub := takeOut_sublist label l.staging
  { lawful with
    staging_size := sub.length_le.trans lawful.staging_size
    staging_labels := lawful.staging_labels.sublist (sub.map _)
    staging_valid := fun f mem => lawful.staging_valid f (sub.subset mem)
    pinned_staged := by
      have kept : (l.active.filter (·.pinned)).filter (fun e => e.label ≠ label) =
          l.active.filter (·.pinned) := by
        rw [List.filter_eq_self]
        intro e mem
        obtain ⟨mem, pinned⟩ := List.mem_filter.1 mem
        rw [decide_eq_true_iff]
        intro same
        rw [unpinned e mem same] at pinned
        cases pinned
      exact kept ▸ lawful.pinned_staged.filter _ }

/-- An edit of the entry of an unpinned label leaves the pinned entries staged. -/
theorem modify (lawful : l.Lawful) (edit : EntryEdit) {e : Entry} (staged : e ∈ l.staging)
    (unpinned : l.Unpinned e.label) (valid : ValidEntry l.units (edit.apply e)) :
    ({ l with staging := l.staging.map fun f =>
        if f.label = e.label then edit.apply f else f } : ListSettings).Lawful :=
  { lawful with
    staging_size := by simpa using lawful.staging_size
    staging_labels := by
      have same : ((l.staging.map fun f => if f.label = e.label then edit.apply f else f).map
          (·.label)) = l.staging.map (·.label) := by
        rw [List.map_map]
        refine List.map_congr_left fun f _ => ?_
        dsimp only [Function.comp_apply]
        split <;> rfl
      exact same ▸ lawful.staging_labels
    staging_valid := fun f mem => by
      obtain ⟨g, staged', rfl⟩ := List.mem_map.1 mem
      split
      · next same =>
        rw [List.inj_on_of_nodup_map lawful.staging_labels staged' staged same]
        exact valid
      · exact lawful.staging_valid g staged'
    pinned_staged := by
      have kept : (l.active.filter (·.pinned)).map
          (fun f => if f.label = e.label then edit.apply f else f) = l.active.filter (·.pinned) := by
        refine (List.map_congr_left fun f mem => ?_).trans (List.map_id _)
        obtain ⟨mem, pinned⟩ := List.mem_filter.1 mem
        refine if_neg fun same => ?_
        rw [unpinned f mem same] at pinned
        cases pinned
      exact kept ▸ lawful.pinned_staged.map _ }


/-- The Active List shrinks to its pinned entries, and the Staging List is a copy of it. -/
theorem warmReset (lawful : l.Lawful) :
    ({ l with
      active := l.active.filter (·.pinned), staging := l.active.filter (·.pinned)
      defaults := ⟨.refuse, .refuse⟩ } : ListSettings).Lawful :=
  have sub : (l.active.filter (·.pinned)).Sublist l.active := List.filter_sublist
  have size := sub.length_le.trans lawful.active_size
  have labels := lawful.active_labels.sublist (sub.map _)
  have valid := fun e mem => lawful.active_valid e (sub.subset mem)
  { lawful with
    staging_size := size, active_size := size, staging_labels := labels, active_labels := labels
    staging_valid := valid, active_valid := valid
    pinned_staged := List.filter_sublist
    default_unit := fun p => by cases p <;> nofun }

/-- A change keeps the laws of the lists. -/
theorem change {l' : ListSettings} (lawful : l.Lawful) (c : ListChange l l') : l'.Lawful := by
  cases c with
  | insert position e valid new room => exact lawful.placeAt position valid new room
  | remove label unpinned => exact lawful.takeOut unpinned
  | modify edit e staged unpinned valid => exact lawful.modify edit staged unpinned valid
  | move position e staged unpinned =>
    exact (lawful.takeOut unpinned).placeAt position (lawful.staging_valid e staged)
      label_ne_of_mem_takeOut ((takeOut_length_lt staged).trans_le lawful.staging_size)
  | clearStaging =>
    exact { lawful with
      staging_size := lawful.active_size, staging_labels := lawful.active_labels
      staging_valid := lawful.active_valid, pinned_staged := List.filter_sublist }
  | swap =>
    exact { lawful with
      active_size := lawful.staging_size, active_labels := lawful.staging_labels
      active_valid := lawful.staging_valid, pinned_staged := List.filter_sublist }
  | default p a allowed =>
    exact { lawful with
      default_unit := fun q => by
        rw [Duo.get_set]
        split
        · next same => exact same ▸ allowed
        · exact lawful.default_unit q }
  | noticeUnit n allowed => exact { lawful with notice_unit := allowed }
  | unit p n active staging defaults notice =>
    exact { lawful with
      staging_valid := fun e mem => validEntry_setUnit (lawful.staging_valid e mem) (staging e mem)
      active_valid := fun e mem => validEntry_setUnit (lawful.active_valid e mem) (active e mem)
      default_unit := fun q => by
        rw [Duo.get_set]
        split
        · next same => rw [← same, otherPort_other] at defaults; exact defaults
        · exact lawful.default_unit q
      notice_unit := by
        cases p with
        | u => exact notice rfl
        | d => exact lawful.notice_unit }
  | managers set free => exact { lawful with }
  | lock => exact { lawful with }
  | warmReset => exact lawful.warmReset

/-- So does a run of changes. -/
theorem changes {l' : ListSettings} (lawful : l.Lawful) (c : ListChanges l l') : l'.Lawful := by
  induction c with
  | refl => exact lawful
  | tail _ last ih => exact ih.change last

end ListSettings.Lawful

/-! ### What each change leaves -/

/-- What lasts until a cold reset: the pinned Active entries stay as they are and in order, and a locked
manager set stays locked and unchanged. -/
def ListSettings.Lasts (l l' : ListSettings) : Prop :=
  (l.active.filter (·.pinned)).Sublist (l'.active.filter (·.pinned)) ∧
    (l.locked = true → l'.locked = true ∧ l'.managers = l.managers)

theorem ListSettings.Lasts.trans {l m n : ListSettings} (first : l.Lasts m) (second : m.Lasts n) :
    l.Lasts n :=
  ⟨first.1.trans second.1, fun locked => by
    obtain ⟨lockedM, managersM⟩ := first.2 locked
    obtain ⟨lockedN, managersN⟩ := second.2 lockedM
    exact ⟨lockedN, managersN.trans managersM⟩⟩

/-- A swap keeps the pinned entries because the Staging List holds them; no other change but the warm reset,
which keeps the pinned ones, touches the Active List. -/
theorem ListChange.lasts {l l' : ListSettings} (c : ListChange l l') (lawful : l.Lawful) :
    l.Lasts l' := by
  have pinnedStay : (l.active.filter (·.pinned)).Sublist (l.active.filter (·.pinned)) :=
    List.Sublist.refl _
  cases c with
  | swap =>
    have staged := lawful.pinned_staged.filter (·.pinned)
    simp only [List.filter_filter, Bool.and_self] at staged
    exact ⟨staged, fun locked => ⟨locked, rfl⟩⟩
  | managers set free => exact ⟨pinnedStay, fun locked => by rw [free] at locked; cases locked⟩
  | lock => exact ⟨pinnedStay, fun _ => ⟨rfl, rfl⟩⟩
  | warmReset =>
    refine ⟨?_, fun locked => ⟨locked, rfl⟩⟩
    simp only [List.filter_filter, Bool.and_self]
    exact pinnedStay
  | insert | remove | modify | move | clearStaging | default | noticeUnit | unit =>
    exact ⟨pinnedStay, fun locked => ⟨locked, rfl⟩⟩

theorem ListSettings.Lawful.lasts {l l' : ListSettings} (lawful : l.Lawful) (c : ListChanges l l') :
    l.Lasts l' := by
  induction c with
  | refl => exact ⟨List.Sublist.refl _, fun locked => ⟨locked, rfl⟩⟩
  | tail first last ih => exact ih.trans (last.lasts (lawful.changes first))

end Sys2Proof
end

section
/-! PROOFS. The operations and events that leave the lists and settings alone. -/

namespace Sys2Proof

open Machine

/-! ### What leaves the lists and settings alone -/

theorem settings_congr {s t : State} (steering : t.steering = s.steering) (mgmt : t.mgmt = s.mgmt) :
    settings t = settings s := by
  unfold settings; rw [steering, mgmt]

section Frames

variable (s : State)

@[simp] theorem settings_setPort (p : Port) (lp : LinkPort) :
    settings (s.setPort p lp) = settings s := rfl
@[simp] theorem settings_setDispatcher (p : Port) (d : Dispatcher) :
    settings (s.setDispatcher p d) = settings s := rfl
@[simp] theorem settings_setTracker (t : Tracker) : settings (setTracker t s) = settings s := rfl
@[simp] theorem settings_setHold (h : HoldQueue) : settings (setHold h s) = settings s := rfl
@[simp] theorem settings_raise (r : NoticeReq) : settings (raise r s) = settings s := rfl
@[simp] theorem settings_clearMarks (r : Resource) : settings (clearMarks r s) = settings s := rfl
@[simp] theorem settings_clearAllMarks : settings (clearAllMarks s) = settings s := rfl
@[simp] theorem settings_enqueue (p : Port) (ch : Chan) (pkt : Packet) :
    settings (enqueue p ch pkt s) = settings s := rfl
@[simp] theorem settings_setWork (p : Port) (w : Work) : settings (setWork p w s) = settings s := rfl
@[simp] theorem settings_finishHead (p : Port) (ch : Chan) :
    settings (finishHead p ch s) = settings s := rfl
@[simp] theorem settings_dropHead (p : Port) (ch : Chan) (lacking : List Resource) :
    settings (dropHead p ch lacking s) = settings s := rfl
@[simp] theorem settings_popNotice : settings (popNotice s) = settings s := rfl
@[simp] theorem settings_freeHead : settings (freeHead s) = settings s := rfl
@[simp] theorem settings_freeSlot (id : HoldId) : settings (freeSlot id s) = settings s := rfl

@[simp] theorem settings_raiseList (rs : List NoticeReq) : settings (raiseList rs s) = settings s :=
  settings_congr (by simp) (by simp)

@[simp] theorem settings_raiseTogether (bs : List (List NoticeReq)) :
    settings (raiseTogether bs s) = settings s :=
  settings_congr (by simp) (by simp)

@[simp] theorem settings_reportRemovals (rs : List Removal) (ns : List NoticeReq) :
    settings (reportRemovals rs ns s) = settings s :=
  settings_congr (by simp) (by simp)

@[simp] theorem settings_coolEntry (e : TrackEntry) (cause : Cause) (ns : List NoticeReq) :
    settings (coolEntry e cause ns s) = settings s :=
  settings_congr (by simp) (by simp)

@[simp] theorem settings_handBack (e : TrackEntry) : settings (handBack e s) = settings s :=
  settings_congr (by simp) (by simp)

@[simp] theorem settings_releaseEntry (e : TrackEntry) : settings (releaseEntry e s) = settings s :=
  settings_congr (by simp) (by simp)

@[simp] theorem settings_refuseHeld (h : HoldSlot) (status : AnswerStatus) :
    settings (refuseHeld h status s) = settings s :=
  settings_congr (by simp) (by simp)

@[simp] theorem settings_forceDrain : settings (forceDrain s) = settings s :=
  settings_congr (by simp) (by simp)

@[simp] theorem settings_setHeadState (st : SlotState) :
    settings (setHeadState st s) = settings s := by
  rw [setHeadState_form]; rfl

@[simp] theorem settings_answerHead (r : Result) (index : Nat) :
    settings (answerHead r index s) = settings s := settings_setHeadState _ _

@[simp] theorem settings_endRelease (r : Result) : settings (endRelease r s) = settings s := by
  obtain ⟨q, form, -⟩ := endRelease_form r s
  rw [form]; rfl

@[simp] theorem settings_reportCompletion (party : Party) (dec : Decision) :
    settings (reportCompletion party dec s) = settings s := by
  unfold reportCompletion
  split
  · rfl
  · cases party <;> rfl

@[simp] theorem settings_managementPortDown (p : Port) :
    settings (managementPortDown p s) = settings s := by
  unfold managementPortDown; split <;> rfl

@[simp] theorem settings_releasePortDown (p : Port) :
    settings (releasePortDown p s).1 = settings s := by
  unfold releasePortDown
  split
  · rfl
  · split
    · rw [settings_endRelease]
      split
      · split
        · exact settings_congr (by simp) (by simp)
        · rfl
      · rfl
    · rfl

/-! ### Each event that leaves the lists and settings alone

Every branch of these events is built from the operations above, none of which touches the lists. -/

@[simp] theorem settings_enterTraining (p : Port) : settings (enterTraining p s) = settings s := rfl
@[simp] theorem settings_enterRetraining (p : Port) : settings (enterRetraining p s) = settings s := rfl
@[simp] theorem settings_enterUp (p : Port) (a : Attempt) : settings (enterUp p a s) = settings s := rfl

@[simp] theorem settings_portDown (p : Port) : settings (portDown p s) = settings s := by
  unfold portDown
  simp only [settings_clearAllMarks, settings_raiseTogether]
  rw [settings_congr (holdPortDown_steering _ _) (holdPortDown_mgmt _ _),
    settings_congr (trackerPortDown_steering _ _) (trackerPortDown_mgmt _ _)]
  simp [dispatcherPortDown]

@[simp] theorem settings_failAttempt (p : Port) (a : Attempt) :
    settings (failAttempt p a s) = settings s := by
  unfold failAttempt enterFaulted
  dsimp only
  repeat' split
  all_goals simp

theorem settings_arriveSpeed (p : Port) (mode lanes rate : Byte) :
    settings (arriveSpeed p mode lanes rate s) = settings s := by
  unfold arriveSpeed trainSpeed
  repeat' split
  all_goals simp

theorem settings_arriveIdent (p : Port) (unit : UnitNo) (free : Trio Nat) (last : SeqNo) :
    settings (arriveIdent p unit free last s) = settings s := by
  unfold arriveIdent takeIdent
  dsimp only
  repeat' split
  all_goals simp

theorem settings_arriveReady (p : Port) : settings (arriveReady p s) = settings s := by
  unfold arriveReady
  repeat' split
  all_goals simp

theorem settings_arriveTraffic (p : Port) (pkt : Packet) (seq : SeqNo) :
    settings (arriveTraffic p pkt seq s) = settings s := by
  unfold arriveTraffic takeTraffic
  repeat' split
  all_goals simp

theorem settings_takeAck (p : Port) (seq : SeqNo) (credit : Trio Nat) :
    settings (takeAck p seq credit s) = settings s := by
  unfold takeAck
  dsimp only
  repeat' split
  all_goals simp

theorem settings_arriveAck (p : Port) (seq : SeqNo) (credit : Trio Nat) :
    settings (arriveAck p seq credit s) = settings s := by
  unfold arriveAck
  repeat' split
  all_goals simp [settings_takeAck]

theorem settings_arriveReplayReq (p : Port) (seq : SeqNo) :
    settings (arriveReplayReq p seq s) = settings s := by
  unfold arriveReplayReq takeReplayReq
  dsimp only
  repeat' split
  all_goals simp

theorem settings_transmit (p : Port) : settings (transmit p s) = settings s := by
  unfold transmit
  dsimp only
  repeat' split
  all_goals simp

@[simp] theorem settings_complete (p : Port) (ch : Chan) (dec : Option Decision)
    (ns : List NoticeReq) : settings (complete p ch dec ns s) = settings s := by
  cases dec <;> simp [complete]

@[simp] theorem settings_refuse (p : Port) (ch : Chan) (req : Packet) (status : ReplyStatus)
    (dec : Option Decision) (ns : List NoticeReq) :
    settings (refuse p ch req status dec ns s) = settings s := by
  unfold refuse
  repeat' split
  all_goals simp

@[simp] theorem settings_egressDown (p : Port) (ch : Chan) (req : Packet) (dec : Decision) :
    settings (egressDown p ch req dec s) = settings s := settings_refuse ..

theorem settings_apertureAccess (p : Port) (ch : Chan) (req : Packet) :
    settings (apertureAccess p ch req s) = settings s := by
  unfold apertureAccess
  repeat' split
  all_goals simp
  rfl

theorem settings_carryOut (p : Port) (ch : Chan) (req : Packet) (dec : Decision) :
    settings (carryOut p ch req dec s) = settings s := by
  unfold carryOut
  repeat' split
  all_goals simp

theorem settings_dispatchRequest (p : Port) (ch : Chan) (slot : InSlot) :
    settings (dispatchRequest p ch slot s) = settings s := by
  unfold dispatchRequest refuseMalformed fenceDispatch
  dsimp only
  repeat' split
  all_goals simp [settings_apertureAccess, settings_carryOut]

theorem settings_dispatchHead (p : Port) : settings (dispatchHead p s) = settings s := by
  unfold dispatchHead
  repeat' split
  all_goals simp [settings_dispatchRequest]

theorem settings_dispatcherHoldOffer (p : Port) :
    settings (dispatcherHoldOffer p s) = settings s := by
  unfold dispatcherHoldOffer
  repeat' split
  all_goals simp

theorem settings_dispatcherPOffer (p : Port) : settings (dispatcherPOffer p s) = settings s := by
  unfold dispatcherPOffer
  repeat' split
  all_goals simp

theorem settings_dispatcherAllocation (p : Port) :
    settings (dispatcherAllocation p s) = settings s := by
  unfold dispatcherAllocation allocateEntry
  repeat' split
  all_goals simp

theorem settings_dispatcherPlacement (p : Port) :
    settings (dispatcherPlacement p s) = settings s := by
  unfold dispatcherPlacement
  repeat' split
  all_goals simp

theorem settings_presentReply (p : Port) (reply : Packet) :
    settings (presentReply p reply s) = settings s := by
  unfold presentReply discardLate consumeFenceReply discardOrphan
  repeat' split
  all_goals simp

theorem settings_takeReply (p : Port) (reply : Packet) (e : TrackEntry) :
    settings (takeReply p reply e s) = settings s := by
  unfold takeReply
  repeat' split
  all_goals simp

@[simp] theorem settings_expireAwaiting (e : TrackEntry) : settings (expireAwaiting e s) = settings s := rfl

theorem settings_placeClosing (p : Port) : settings (placeClosing p s) = settings s := by
  unfold placeClosing
  repeat' split
  all_goals simp

@[simp] theorem settings_endCooling (tag : Tag) : settings (endCooling tag s) = settings s := by
  unfold endCooling
  dsimp only
  split <;> rfl

@[simp] theorem settings_expireHeld (h : HoldSlot) : settings (expireHeld h s) = settings s := by
  simp [expireHeld]

theorem settings_placeAnswer (p : Port) : settings (placeAnswer p s) = settings s := by
  unfold placeAnswer
  repeat' split
  all_goals simp

/-! ### Releases -/

@[simp] theorem settings_setPhase (r : Release) (phase : ReleasePhase) :
    settings (setPhase r phase s) = settings s := rfl

theorem settings_endWait : settings (endWait s) = settings s := by
  unfold endWait
  repeat' split
  all_goals simp

@[simp] theorem settings_endDone (dec : Option Decision) (r : Result) :
    settings (endDone dec r s) = settings s := by
  cases dec <;> simp [endDone]

@[simp] theorem settings_endRefused (h : HoldSlot) (status : AnswerStatus) (dec : Option Decision)
    (ns : List NoticeReq) (outcome : ReleaseOutcome) :
    settings (endRefused h status dec ns outcome s) = settings s := by
  simp [endRefused]

@[simp] theorem settings_endHeld (h : HoldSlot) (code : ResultCode) :
    settings (endHeld h code s) = settings s := by
  unfold endHeld
  dsimp only
  repeat' split
  all_goals simp

theorem settings_releaseLookup (r : Release) (h : HoldSlot) :
    settings (releaseLookup r h s) = settings s := by
  unfold releaseLookup
  dsimp only
  repeat' split
  all_goals simp

theorem settings_releasePOffer (r : Release) (h : HoldSlot) (dec : Decision) :
    settings (releasePOffer r h dec s) = settings s := by
  unfold releasePOffer
  repeat' split
  all_goals simp

theorem settings_releaseAllocation (r : Release) (h : HoldSlot) (dec : Decision) :
    settings (releaseAllocation r h dec s) = settings s := by
  unfold releaseAllocation allocateEntry
  repeat' split
  all_goals simp

theorem settings_releasePlacement (h : HoldSlot) (dec : Decision) (e : TrackEntry) :
    settings (releasePlacement h dec e s) = settings s := by
  unfold releasePlacement
  repeat' split
  all_goals simp

theorem settings_nextReleaseStep : settings (nextReleaseStep s) = settings s := by
  unfold nextReleaseStep
  repeat' split
  all_goals simp [settings_releaseLookup, settings_releasePOffer, settings_releaseAllocation,
    settings_releasePlacement]

theorem settings_holdPOffer : settings (holdPOffer s) = settings s := by
  unfold holdPOffer
  repeat' split
  all_goals simp [settings_releasePOffer]

theorem settings_holdAllocation : settings (holdAllocation s) = settings s := by
  unfold holdAllocation
  repeat' split
  all_goals simp [settings_releaseAllocation]

theorem settings_holdPlacement : settings (holdPlacement s) = settings s := by
  unfold holdPlacement
  repeat' split
  all_goals simp [settings_releasePlacement]

theorem settings_startRelease (body : List Byte) :
    settings (startRelease body s).state = settings s := by
  unfold startRelease
  dsimp only
  repeat' split
  all_goals rfl

end Frames

end Sys2Proof
end

section
/-! PROOFS. Which of those changes each command makes, and what follows for every step. -/

namespace Sys2Proof

open Machine

/-! ### The commands that change the lists and settings -/

theorem listChanges_of_eq {l l' : ListSettings} (same : l' = l) : ListChanges l l' :=
  same ▸ Relation.ReflTransGen.refl

theorem ListChange.changes {l l' : ListSettings} (c : ListChange l l') : ListChanges l l' :=
  Relation.ReflTransGen.single c

/-- The entry staged under a label stands in the Staging List and has that label. -/
theorem staged_spec {st : Steering} {label : Label} {e : Entry} (h : st.staged label = some e) :
    e ∈ st.staging ∧ e.label = label :=
  ⟨List.mem_of_find?_eq_some h, by simpa using List.find?_some h⟩

theorem unpinned_of_pinnedLabel {s : State} {label : Label}
    (h : s.steering.pinnedLabel label = false) : (settings s).Unpinned label := by
  intro e mem same
  obtain ⟨a, active, rfl⟩ := List.mem_map.1 mem
  simpa [same] using List.any_eq_false.1 h a active

theorem insertEdit_change {s : State} {body : List Byte} {staging : List Entry}
    (h : insertEdit s.mgmt.params.unit body s.steering = .ok staging) :
    ListChange (settings s) { settings s with staging := staging } := by
  unfold insertEdit at h
  dsimp only at h
  split at h
  · cases h
  next e _ =>
    split_ifs at h with range staged full position
    cases h
    refine .insert _ e ?_ ?_ (Nat.lt_of_not_le full)
    · rw [validEntry_iff]
      simp only [not_or, Bool.not_eq_false] at range
      exact range.2
    · intro f mem same
      simp only [Steering.staged, Option.not_isSome_iff_eq_none, List.find?_eq_none] at staged
      exact staged f mem (by simpa using same)

theorem removeEdit_change {s : State} {body : List Byte} {staging : List Entry}
    (h : removeEdit body s.steering = .ok staging) :
    ListChange (settings s) { settings s with staging := staging } := by
  unfold removeEdit at h
  dsimp only at h
  split_ifs at h with zero staged pinned
  cases h
  exact .remove _ (unpinned_of_pinnedLabel (by simpa using pinned))

theorem modifyEdit_change {s : State} {body : List Byte} {staging : List Entry}
    (h : modifyEdit s.mgmt.params.unit body s.steering = .ok staging) :
    ListChange (settings s) { settings s with staging := staging } := by
  unfold modifyEdit at h
  dsimp only at h
  split at h
  · cases h
  next edit _ =>
    split at h
    · cases h
    split at h
    · cases h
    next e found =>
      obtain ⟨mem, label⟩ := staged_spec found
      rw [← label] at h
      split_ifs at h with pinned valid
      cases h
      exact .modify edit e mem (unpinned_of_pinnedLabel (by simpa using pinned))
        ((validEntry_iff _ _).2 valid)

theorem moveEdit_change {s : State} {body : List Byte} {staging : List Entry}
    (h : moveEdit body s.steering = .ok staging) :
    ListChange (settings s) { settings s with staging := staging } := by
  unfold moveEdit at h
  dsimp only at h
  split at h
  · cases h
  split at h
  · cases h
  next e found =>
    obtain ⟨mem, label⟩ := staged_spec found
    rw [← label] at h
    split_ifs at h with pinned position
    cases h
    exact .move _ e mem (unpinned_of_pinnedLabel (by simpa using pinned))

/-- A staging edit changes nothing, or replaces the Staging List. -/
theorem applyEdit_changes {edit : EditResult} {s : State}
    (h : ∀ staging, edit = .ok staging →
      ListChange (settings s) { settings s with staging := staging }) :
    ListChanges (settings s) (settings (applyEdit edit s).2) := by
  cases edit with
  | error code => exact .refl
  | ok staging => exact (h staging rfl).changes

theorem settings_takeSwap (s : State) :
    settings (takeSwap s) = { settings s with active := (settings s).staging } := by
  have carried : ∀ (old : List ActiveEntry) (gen : Gen) (e : Entry),
      (carryCount old gen e).entry = e := by
    intro old gen e
    unfold carryCount
    split
    · next a found => simpa using List.find?_some found
    · rfl
  unfold takeSwap
  simp only [settings_clearAllMarks, settings_raiseList]
  rw [settings_congr (settleDrain_steering _) (settleDrain_mgmt _)]
  simp only [settings, Steering.swap, List.map_map]
  congr 1
  exact (List.map_congr_left fun e _ => carried _ _ e).trans (List.map_id _)

theorem settings_warmResetAll (s : State) : settings (warmResetAll s) = { settings s with
    active := (settings s).active.filter (·.pinned)
    staging := (settings s).active.filter (·.pinned)
    defaults := ⟨.refuse, .refuse⟩ } := by
  have commit : ∀ u : State, settings (commitWarmReset u).1 = settings u := by
    intro u; unfold commitWarmReset; split <;> rfl
  have hold : ∀ u : State, settings (holdWarmReset u).1 = settings u := fun _ => rfl
  have tracker : ∀ u : State, settings (trackerWarmReset u) = settings u := fun _ => rfl
  have dispatcher : ∀ (p : Port) (u : State), settings (dispatcherWarmReset p u) = settings u :=
    fun _ _ => rfl
  unfold warmResetAll
  simp only [settings_raise, settings_raiseTogether, commit, hold, tracker, dispatcher]
  simp only [settings, Steering.warmReset, setMgmt_steering, List.filter_map]
  rfl

theorem unitBarred_eq_false {p : Port} {n : UnitNo} {s : State} (h : unitBarred p n s = false) :
    (∀ e ∈ (settings s).active, e.targets p n = false) ∧
      (∀ e ∈ (settings s).staging, e.targets p n = false) ∧
      (settings s).defaults.get (otherPort p) ≠ .pass n ∧
      (p = .u → (settings s).noticeUnit ≠ n) := by
  simp only [unitBarred, Bool.or_eq_false_iff, List.any_eq_false, Bool.not_eq_true,
    decide_eq_false_iff_not, Bool.and_eq_false_imp, decide_eq_true_eq] at h
  obtain ⟨⟨⟨active, staging⟩, defaults⟩, notice⟩ := h
  exact ⟨by simpa [settings] using active, staging, defaults, notice⟩

theorem setParam_changes (v : ParamValue) (s : State) :
    ListChanges (settings s) (settings (setParam v s).2) := by
  cases v with
  | replyTimeout t => exact .refl
  | holdLimit t => exact .refl
  | default p a =>
    simp only [setParam]
    split_ifs with same
    · exact .refl
    · exact .refl
    · exact (ListChange.default (l := settings s) p a same).changes
  | noticeTarget t =>
    simp only [setParam]
    split_ifs with same
    · exact .refl
    · exact (ListChange.noticeUnit (l := settings s) t.unit same).changes
  | unit p n =>
    simp only [setParam]
    split_ifs with same barred
    · exact .refl
    · exact .refl
    · obtain ⟨active, staging, defaults, notice⟩ := unitBarred_eq_false (by simpa using barred)
      exact (ListChange.unit p n active staging defaults notice).changes
  | linkPref p o => exact .refl

theorem runSetParam_changes (body : List Byte) (s : State) :
    ListChanges (settings s) (settings (runSetParam body s).2) := by
  unfold runSetParam
  split
  · exact .refl
  · exact setParam_changes _ s

theorem runSetManagers_changes (body : List Byte) (s : State) :
    ListChanges (settings s) (settings (runSetManagers body s).2) := by
  unfold runSetManagers
  dsimp only
  split_ifs with locked
  · exact .refl
  · exact .refl
  · exact (ListChange.managers (l := settings s) _ (Bool.eq_false_of_not_eq_true locked)).changes

/-- What a command does to the lists and settings, alone or as a member of a batch. -/
theorem runCommand_changes (code : CommandCode) (body : List Byte) (s : State) :
    ListChanges (settings s) (settings (runCommand code body s).state) := by
  cases code with
  | insert => exact applyEdit_changes fun _ => insertEdit_change
  | remove => exact applyEdit_changes fun _ => removeEdit_change
  | modify => exact applyEdit_changes fun _ => modifyEdit_change
  | move => exact applyEdit_changes fun _ => moveEdit_change
  | clearStaging => exact ListChange.clearStaging.changes
  | commit =>
    simp only [runCommand, runCommit]
    split_ifs
    · exact .refl
    · exact .refl
    · have swapped : ListChange (settings s) (settings (takeSwap s)) :=
        settings_takeSwap s ▸ ListChange.swap
      exact swapped.changes
  | forceDrain =>
    simp only [runCommand, runForceDrain]
    split_ifs
    · exact listChanges_of_eq (settings_forceDrain s)
    · exact .refl
  | release => exact listChanges_of_eq (settings_startRelease s body)
  | discard =>
    simp only [runCommand, runDiscard]
    split_ifs
    · exact .refl
    · split
      · exact .refl
      · exact listChanges_of_eq (settings_refuseHeld s _ _)
  | setParam => exact runSetParam_changes body s
  | setAperture =>
    simp only [runCommand, runSetAperture]
    split_ifs <;> exact .refl
  | setManagers => exact runSetManagers_changes body s
  | lockManagers => exact ListChange.lock.changes
  | linkRestart =>
    simp only [runCommand, runLinkRestart]
    split_ifs <;> exact .refl
  | nop | warmReset | batch => exact .refl

/-- A single command does what its run does, and is answered. -/
theorem takeCommand_changes {code : CommandCode} {run : List Byte → CommandRun} (s : State)
    (runs : ∀ body, (runCommand code body s).state = (run body s).2) :
    ListChanges (settings s) (settings (takeCommand code run s)) := by
  unfold takeCommand
  split
  next body _ =>
    split
    · exact (runs body ▸ runCommand_changes code body s).trans
        (listChanges_of_eq (settings_answerHead _ _ _))
    · exact .refl
  · exact .refl

theorem runMember_changes (code : CommandCode) (body : List Byte) (last : Bool) (s : State) :
    ListChanges (settings s) (settings (runMember code body last s).state) := by
  unfold runMember
  split
  · exact .refl
  · exact runCommand_changes code body s

/-- The execution pass of a batch makes the changes of its members, one after the other. -/
theorem runMembers_changes (members : Nat) (run : BatchRun) (s : State) :
    ListChanges (settings s) (settings (runMembers members run s)) := by
  induction members generalizing run s with
  | zero => exact listChanges_of_eq (settings_setHeadState s _)
  | succ members ih =>
    unfold runMembers
    split
    · exact listChanges_of_eq (settings_answerHead s _ _)
    next code body rest _ =>
      have member := runMember_changes code body rest.isEmpty s
      split
      · next r u came =>
        rw [came] at member
        split_ifs
        · exact member.trans (listChanges_of_eq (settings_answerHead u _ _))
        · exact member.trans (ih _ u)
        · exact member.trans (listChanges_of_eq (settings_answerHead u _ _))
      · next u came =>
        rw [came] at member
        exact member.trans (listChanges_of_eq (settings_setHeadState u _))

theorem takeBatch_changes (members : Nat) (s : State) :
    ListChanges (settings s) (settings (takeBatch members s)) := by
  unfold takeBatch
  split
  · split
    · exact listChanges_of_eq (settings_answerHead s _ _)
    · exact runMembers_changes members _ s
  · split
    · split
      · exact runMembers_changes members _ s
      · exact .refl
    · exact .refl

theorem settings_captureRead (s : State) : settings (captureRead s) = settings s := by
  unfold captureRead
  split <;> simp

@[simp] theorem settings_placeReply (slot : CommandSlot) (status : ReplyStatus)
    (payload : List Byte) (s : State) : settings (placeReply slot status payload s) = settings s := rfl

/-- Placing the reply of a WARM_RESET is the warm reset; no other reply changes the lists. -/
theorem offerReply_changes (s : State) : ListChanges (settings s) (settings (offerReply s)) := by
  unfold offerReply
  split
  · exact .refl
  next slot _ _ =>
    split
    · split
      · dsimp only
        split
        · rw [settings_warmResetAll, settings_placeReply]
          exact ListChange.warmReset.changes
        · exact .refl
      · exact .refl
      · exact .refl
    · exact .refl

/-! ### Every command -/

theorem settings_takeRelease (s : State) : settings (takeRelease s) = settings s := by
  unfold takeRelease
  split
  next body _ =>
    have started := settings_startRelease s body
    split
    · next r u came => rw [came] at started; exact (settings_answerHead u _ _).trans started
    · next u came => rw [came] at started; exact (settings_setHeadState u _).trans started
  · rfl

/-- The other accesses at the head of the command queue leave the lists and settings alone. -/
theorem settings_headAccesses (s : State) :
    settings (takeWarmReset s) = settings s ∧ settings (takeMalformed s) = settings s ∧
      settings (takeUnsupported s) = settings s ∧ settings (takeNotManager s) = settings s ∧
      settings (takePop s) = settings s := by
  refine ⟨?_, ?_, ?_, ?_, ?_⟩
  · unfold takeWarmReset; split <;> simp
  · unfold takeMalformed; split <;> simp
  · unfold takeUnsupported; split <;> simp
  · unfold takeNotManager; split <;> simp
  · unfold takePop; repeat' split
    all_goals simp

theorem settings_emitNotice (s : State) : settings (emitNotice s) = settings s := by
  unfold emitNotice
  repeat' split
  all_goals simp

/-- The oldest report of a party changes counts and reports alone. -/
theorem settings_count (s : State) (r : Report) (party : Party) :
    settings { s with steering := (s.steering.count r).popReport party } = settings s := by
  have counted : (s.steering.count r).active.map (·.entry) = s.steering.active.map (·.entry) := by
    unfold Steering.count
    split
    · rfl
    · simp only [List.map_map]
      refine List.map_congr_left fun a _ => ?_
      dsimp only [Function.comp_apply]
      split <;> rfl
  have kept : (s.steering.count r).staging = s.steering.staging ∧
      (s.steering.count r).defaults = s.steering.defaults := by
    unfold Steering.count; split <;> exact ⟨rfl, rfl⟩
  cases party <;> simp only [settings, Steering.popReport, counted, kept]

/-- What any command but a cold reset does to the lists and settings. -/
theorem exec_changes {c : Instr} {s t : State} (notCold : ∀ strap, c ≠ .coldReset strap)
    (h : exec c s = .next t) : ListChanges (settings s) (settings t) := by
  obtain ⟨warm, malformed, unsupported, notManager, pop⟩ := settings_headAccesses s
  cases c with
  | coldReset strap => exact absurd rfl (notCold strap)
  | nop | insert | remove | modify | move | clearStaging | commit | forceDrain | discard | setParam
  | setAperture | setManagers | lockManagers | linkRestart =>
    cases h; exact takeCommand_changes s fun _ => rfl
  | batch members => cases h; exact takeBatch_changes members s
  | commandReplyPlacement =>
    cases h; exact settings_captureRead s ▸ offerReply_changes (captureRead s)
  | release => cases h; exact listChanges_of_eq (settings_takeRelease s)
  | warmReset => cases h; exact listChanges_of_eq warm
  | malformedCommandBlock => cases h; exact listChanges_of_eq malformed
  | unsupportedApertureAccess => cases h; exact listChanges_of_eq unsupported
  | notManagerRefusal => cases h; exact listChanges_of_eq notManager
  | noticePop => cases h; exact listChanges_of_eq pop
  | noticeEmission => cases h; exact listChanges_of_eq (settings_emitNotice s)
  | dispatch p => cases h; exact listChanges_of_eq (settings_dispatchHead s p)
  | holdOffer p => cases h; exact listChanges_of_eq (settings_dispatcherHoldOffer s p)
  | pTransmitOffer party =>
    cases h
    cases party with
    | dispatcher p => exact listChanges_of_eq (settings_dispatcherPOffer s p)
    | hold => exact listChanges_of_eq (settings_holdPOffer s)
  | tagAllocation party =>
    cases h
    cases party with
    | dispatcher p => exact listChanges_of_eq (settings_dispatcherAllocation s p)
    | hold => exact listChanges_of_eq (settings_holdAllocation s)
  | nTransmitPlacement party =>
    cases h
    cases party with
    | dispatcher p => exact listChanges_of_eq (settings_dispatcherPlacement s p)
    | hold => exact listChanges_of_eq (settings_holdPlacement s)
  | hitCountReport party =>
    cases h
    split
    · exact .refl
    · exact listChanges_of_eq (settings_count s _ party)
  | replyPresentation p =>
    cases h
    split
    · exact listChanges_of_eq (settings_presentReply s p _)
    · exact .refl
  | replyTake p =>
    cases h
    split
    · exact listChanges_of_eq (settings_takeReply s p _ _)
    · exact .refl
  | entryExpiry | drainFenceExpiry | orphanedExpiry | coolingExpiry | holdExpiry =>
    cases h
    refine listChanges_of_eq ?_
    split <;> simp
  | closingReplyPlacement p => cases h; exact listChanges_of_eq (settings_placeClosing s p)
  | holdAnswerPlacement p => cases h; exact listChanges_of_eq (settings_placeAnswer s p)
  | releaseWaitEnd => cases h; exact listChanges_of_eq (settings_endWait s)
  | releaseSteps => cases h; exact listChanges_of_eq (settings_nextReleaseStep s)
  | referenceClockStable | attemptDeadlineExpiry | holdOffExpiry | sendAck | sendReplayReq
  | replayResend =>
    cases h
    refine listChanges_of_eq ?_
    split <;> simp
  | sendTrain p => cases h; exact .refl
  | ackDeadlineExpiry p =>
    cases h
    refine listChanges_of_eq ?_
    repeat' split
    all_goals simp
  | speedReceived | identReceived | readyReceived | receivePacket | ackReceived
  | replayReqReceived =>
    cases h
    refine listChanges_of_eq ?_
    repeat' split
    all_goals simp [settings_arriveSpeed, settings_arriveIdent, settings_arriveReady,
      settings_arriveTraffic, settings_arriveAck, settings_arriveReplayReq, takeDamaged]
  | transmitPacket p => cases h; exact listChanges_of_eq (settings_transmit s p)

/-- A step lets a microsecond pass, or runs one command on the state with another queue of commands. -/
theorem step_cases {s t : State} (h : step s = .next t) :
    t = { s with timebase := s.timebase + 1 } ∨
      ∃ c pending, exec c { s with pending := pending } = .next t := by
  unfold step at h
  split at h
  · unfold tick at h
    split at h
    · cases h; exact .inl rfl
    · exact .inr ⟨_, s.pending, h⟩
  · exact .inr ⟨_, _, h⟩

/-- The laws hold of the lists and settings after a cold reset. -/
theorem settings_reset_lawful : (settings State.reset).Lawful where
  staging_size := by decide
  active_size := by decide
  staging_labels := .nil
  active_labels := .nil
  staging_valid := fun _ mem => absurd mem List.not_mem_nil
  active_valid := fun _ mem => absurd mem List.not_mem_nil
  pinned_staged := .slnil
  default_unit := fun p => by cases p <;> nofun
  notice_unit := show (0 : UnitNo) ≠ 31 by decide

/-- A cold reset gives lists that keep the laws, and every other command makes changes that keep them. -/
theorem exec_keeps_listLaws {c : Instr} {s t : State} (laws : ListLaws s) (h : exec c s = .next t) :
    ListLaws t := by
  rw [listLaws_iff] at laws ⊢
  by_cases cold : ∃ strap, c = .coldReset strap
  · obtain ⟨strap, rfl⟩ := cold
    cases h
    exact settings_reset_lawful
  · exact laws.changes (exec_changes (fun strap is => cold ⟨strap, is⟩) h)

/-- Settles O57: a microsecond leaves the lists alone, and every command keeps their laws. -/
theorem listLawsAreKept : Obligations.ListLawsAreKept := by
  intro s t laws h
  rcases step_cases h with rfl | ⟨c, pending, ran⟩
  · exact (listLaws_iff _).2 ((listLaws_iff s).1 laws)
  · have queued : ListLaws { s with pending := pending } :=
      (listLaws_iff _).2 ((listLaws_iff s).1 laws)
    exact exec_keeps_listLaws queued ran

/-- Settles O60: no change that a command makes removes or reorders a pinned Active entry or touches a locked
manager set; a swap keeps the pinned entries because the Staging List holds them (R90). -/
theorem pinnedEntriesAndLockLast : Obligations.PinnedEntriesAndLockLast := by
  intro c s t laws notCold h
  exact ((listLaws_iff s).1 laws).lasts (exec_changes notCold h)

end Sys2Proof
end

section
/-! PROOFS. The dispatch of a request that is refused by its decision, whose egress port is not UP, or that
lies in the aperture. -/

namespace Sys2Proof

open Machine

/-! ### Refusals under a decision (R33, R36, R37, R40) -/

/-- A refusal under a decision: the posted write is discarded, any other request is answered, or its
dispatch is dropped for want of C space. -/
theorem refuse_outcomes (p : Port) (ch : Chan) (req : Packet) (status : ReplyStatus) (dec : Decision)
    (notice : Option NoticeReq) (s : State) :
    let refused := refuse p ch req status (some dec) notice.toList s
    (req.kind = .write → refused = reportedBy p dec (maybeNoticed notice (headLeft p ch s))) ∧
    (req.kind ≠ .write → TakesOffer p .c s → refused =
      reportedBy p dec (maybeNoticed notice (headLeft p ch (repliedTo p req status s)))) ∧
    (req.kind ≠ .write → ¬TakesOffer p .c s → refused = headDropped p ch [.transmit p .c] s) := by
  refine ⟨fun write => ?_, fun other room => ?_, fun other full => ?_⟩
  · rw [refuse_write _ _ _ _ _ _ _ write, complete_eq]
  · rw [refuse_placed _ _ _ _ _ _ _ other room, complete_eq]
  · exact refuse_dropped _ _ _ _ _ _ _ other full

/-- The refusals that a decision can name, with the status and the notice of each. -/
theorem carryOut_refusal {p : Port} {req : Packet} {dec : Decision} {status : ReplyStatus}
    {notice : Option NoticeReq} (ch : Chan) (s : State)
    (ruled : dec.ruling = .refuse true ∧ status = .refused ∧
        notice = some (requestNoticed .refused p req dec.label dec.generation 1) ∨
      dec.ruling = .refuse false ∧ status = .refused ∧ notice = none ∨
      dec.ruling = .boundary ∧ status = .boundary ∧
        notice = some (requestNoticed .boundary p req dec.label dec.generation 0) ∨
      dec.ruling = .defaultRefuse ∧ status = .refused ∧
        notice = some (requestNoticed .refused p req dec.label dec.generation 2)) :
    carryOut p ch req dec s = refuse p ch req status (some dec) notice.toList s := by
  unfold carryOut
  rcases ruled with ⟨ruling, rfl, rfl⟩ | ⟨ruling, rfl, rfl⟩ | ⟨ruling, rfl, rfl⟩ | ⟨ruling, rfl, rfl⟩
  all_goals rw [ruling]; rfl

/-- A steered request whose egress port is not UP takes the egress-down outcome. -/
theorem carryOut_egressDown {dec : Decision} {route : Route} {egress : Port} {dest : UnitNo}
    {address : Addr} {timeout : Time} (p : Port) (ch : Chan) (req : Packet) {s : State}
    (ruling : dec.ruling = .steer route egress dest address timeout)
    (notUp : (s.port egress).state ≠ .up) :
    carryOut p ch req dec s = refuse p ch req .linkDown (some dec)
      (if req.kind = .write then some (requestNoticed .refused p req dec.label dec.generation 3)
        else none).toList s := by
  unfold carryOut
  rw [ruling]
  dsimp only
  rw [if_pos notUp]
  unfold egressDown
  split <;> rfl

/-- Settles O18: each refusal, and the egress-down outcome, is `refuse` with its status and notice. -/
theorem refusalIsCarriedOut : Obligations.RefusalIsCarriedOut := by
  refine ⟨fun p s ch req dec status notice decides ruled => ?_,
    fun p s ch req dec route egress dest address timeout decides ruling notUp => ?_⟩
  · rw [dispatch_decides decides, carryOut_refusal ch s ruled]
    obtain ⟨discarded, answered, dropped⟩ := refuse_outcomes p ch req status dec notice s
    exact ⟨fun write => congrArg _ (discarded write),
      fun other room => congrArg _ (answered other room),
      fun other full => congrArg _ (dropped other full)⟩
  · rw [dispatch_decides decides, carryOut_egressDown p ch req ruling notUp]
    obtain ⟨discarded, answered, dropped⟩ := refuse_outcomes p ch req .linkDown dec
      (if req.kind = .write then some (requestNoticed .refused p req dec.label dec.generation 3)
        else none) s
    refine ⟨fun write => congrArg _ ((discarded write).trans ?_),
      fun other room => congrArg _ ((answered other room).trans ?_),
      fun other full => congrArg _ (dropped other full)⟩
    · rw [if_pos write]; rfl
    · rw [if_neg other]; rfl

/-! ### Aperture accesses (R32) -/

/-- The dispatch of a request to the aperture. -/
theorem dispatch_aperture {ch : Chan} {req : Packet} {s : State} (taken : TakesRequest .u ch req s)
    (notFence : req.kind ≠ .fence) (inside : InAperture .u req s) :
    exec (.dispatch .u) s = .next (apertureAccess .u ch req s) := by
  rw [dispatch_takesRequest taken, if_neg notFence, if_pos ((inAperture_iff _ _ _).1 inside)]

/-- Settles O20, by the branches of an aperture access. -/
theorem apertureAccessIsDispatched : Obligations.ApertureAccessIsDispatched := by
  intro s ch req taken notFence inside base past
  rw [dispatch_aperture taken notFence inside]
  unfold apertureAccess
  refine ⟨fun write => ?_, fun other isPast => ⟨fun room => ?_, fun full => ?_⟩,
    fun other within => ⟨fun slotFree => ?_, fun noSlot room => ?_, fun noSlot full => ?_⟩⟩
  · rw [if_pos write]; rfl
  · rw [if_neg other, if_pos isPast, refuse_placed _ _ _ _ _ _ _ other room]; rfl
  · rw [if_neg other, if_pos isPast, refuse_dropped _ _ _ _ _ _ _ other full]
  · rw [if_neg other, if_neg within, if_pos (show _ < Config.commandSlots from slotFree)]; rfl
  · rw [if_neg other, if_neg within, if_neg (show ¬_ < Config.commandSlots from Nat.not_lt.2 noSlot),
      if_pos ((takesOffer_iff _ _ _).1 room)]
    rfl
  · rw [if_neg other, if_neg within, if_neg (show ¬_ < Config.commandSlots from Nat.not_lt.2 noSlot),
      if_neg fun taken => full ((takesOffer_iff _ _ _).2 taken)]
    rfl

end Sys2Proof
end

section
/-! PROOFS. The Steering Engine's decisions and counts, and the state after a cold reset. -/

namespace Sys2Proof

open Machine

/-! ### Completion reports (R23) -/

/-- A report counts at the entry of its label whose count has run since; label 0 names no entry. -/
theorem steering_count_eq (st : Steering) (r : Report) : st.count r = { st with
    active := st.active.map fun a =>
      if r.label ≠ 0 ∧ a.entry.label = r.label ∧
          (r.generation - a.origin).toNat ≤ (st.generation - a.origin).toNat then
        { a with hits := if a.hits = 0xFFFFFFFF then a.hits else a.hits + 1 }
      else a } := by
  unfold Steering.count
  by_cases unlabelled : r.label = 0
  · simp [unlabelled]
  · simp only [ne_eq, unlabelled, not_false_eq_true, true_and, runSince, decide_eq_true_eq]
    rfl

/-- The oldest report of a party is counted and taken from those on their way. -/
theorem hitCountReport_eq {party : Party} {s : State} {r : Report} {rest : List Report}
    (oldest : s.steering.reportsOf party = r :: rest) :
    exec (.hitCountReport party) s =
      .next { s with steering := (s.steering.count r).popReport party } := by
  simp only [exec, execHitCountReport, oldest]

/-- Settles O25, for a dispatcher's reports and for the Hold Queue's. -/
theorem completionReportIsCounted : Obligations.CompletionReportIsCounted := by
  intro party s r rest counted
  refine ⟨?_, ?_⟩
  · rintro p rfl reports
    rw [hitCountReport_eq (party := .dispatcher p) reports, steering_count_eq]
    simp only [Steering.popReport, reports, List.tail_cons]
    rfl
  · rintro rfl reports
    rw [hitCountReport_eq (party := .hold) reports, steering_count_eq]
    simp only [Steering.popReport, reports, List.tail_cons]
    rfl

/-! ### The lookup (R12, R13) -/

/-- The walk ends at the first entry it does not pass over: it matches or straddles. -/
theorem walk_first {release : Bool} {r : Request} {before after : List ActiveEntry} {a : ActiveEntry}
    (passed : ∀ b ∈ before, PassedOver release r b.entry) (candidate : Candidate release r a.entry) :
    (Contained r a.entry → walk release r (before ++ a :: after) = some (a, true)) ∧
    (¬Contained r a.entry → Overlaps r a.entry →
      walk release r (before ++ a :: after) = some (a, false)) := by
  rw [walk_append release r before _ passed]
  rw [candidate_iff] at candidate
  rw [contained_iff, overlaps_iff]
  unfold walk
  rw [if_pos candidate]
  refine ⟨fun contained => if_pos contained, fun outside overlaps => ?_⟩
  rw [if_neg outside, if_pos overlaps]

theorem walk_none {release : Bool} {r : Request} {l : List ActiveEntry}
    (passed : ∀ a ∈ l, PassedOver release r a.entry) : walk release r l = none := by
  have := walk_append release r l [] passed
  rwa [List.append_nil] at this

/-- Settles O52: the entry the walk ends at, or the default action, gives the decision. -/
theorem firstCandidateDecides : Obligations.FirstCandidateDecides := by
  intro s release r dec ps
  have decision : dec = s.lookup release r := rfl
  unfold State.lookup at decision
  refine ⟨?_, fun before a after list passed candidate => ?_, fun passed => ?_⟩
  · rw [decision]; split <;> rfl
  · obtain ⟨matched, straddled⟩ := walk_first (after := after) passed candidate
    rw [list] at decision
    refine ⟨fun contained => ?_, fun outside overlaps => ?_⟩
    · rw [matched contained] at decision
      rw [decision]
      refine ⟨rfl, fun action => ?_, fun action => ?_, fun action => ?_, fun action => ?_⟩
      all_goals simp only [Entry.ruling, action] <;> rfl
    · rw [straddled outside overlaps] at decision
      rw [decision]
      exact ⟨rfl, rfl⟩
  · rw [walk_none passed] at decision
    rw [decision]
    refine ⟨rfl, fun refuses => ?_, fun unit passes => ?_⟩
    · simp only [refuses, DefaultAction.ruling]
    · simp only [passes, DefaultAction.ruling]; rfl

/-! ### Cold reset (R169) -/

/-- The aperture the strap places lies below 2^48, so its address is the sum of R108 in numbers. -/
theorem strapBase_eq (strap : BitVec 4) :
    strapBase strap = BitVec.ofNat 48 (0xFFF000000000 + strap.toNat * 0x10000) := by
  unfold strapBase
  refine BitVec.eq_of_toNat_eq ?_
  have small := strap.isLt
  have first : (0xFFF000000000 : Addr).toNat = 0xFFF000000000 := rfl
  have apart : (0x10000 : Addr).toNat = 0x10000 := rfl
  rw [BitVec.toNat_add, BitVec.toNat_mul, BitVec.toNat_setWidth, BitVec.toNat_ofNat, first, apart]
  omega

/-- Settles O3: both ports and dispatchers are at their cold values, and COLD_RESET makes that state. -/
theorem coldResetGivesColdValues : Obligations.ColdResetGivesColdValues := by
  have port : ∀ p, State.reset.port p = LinkPort.cold := fun p => by cases p <;> rfl
  have dispatcher : ∀ p, State.reset.dispatcher p = Dispatcher.cold := fun p => by cases p <;> rfl
  refine ⟨?_, ?_, fun strap s => ?_⟩
  · simp only [port, dispatcher]
    simp [State.reset, Steering.cold, Tracker.cold, HoldQueue.cold, Commit.cold, Management.cold,
      Params.cold, NoticeUnit.cold, LinkPort.cold, Dispatcher.cold]
  · simp only [port, dispatcher]
    simp [State.reset, Steering.cold, HoldQueue.cold, LinkPort.cold, Dispatcher.cold]
  · rw [← strapBase_eq]; rfl

end Sys2Proof
end

section
/-! PROOFS. The release lookup and the placements that need no slot or tag (R78, Table 4-2). -/

namespace Sys2Proof

open Machine

/-! ### The end of a release under its answer -/

theorem reportedByHold_release (dec : Decision) (s : State) :
    (reportedByHold dec s).hold.release = s.hold.release := by
  unfold reportedByHold; split <;> rfl

theorem maybeNoticed_release (notice : Option NoticeReq) (s : State) :
    (maybeNoticed notice s).hold.release = s.hold.release := by
  cases notice <;> rfl

/-- The release ends with the request refused under a decision: the record is settled, the notice raised, the
decision reported, and the outcome delivered. -/
theorem endRefused_decided {h : HoldSlot} {mark : Option Nat} {phase : ReleasePhase} {delivers : Bool}
    {s : State} (inProgress : s.hold.release = some ⟨h, mark, phase, delivers⟩)
    (status : AnswerStatus) (dec : Decision) (notice : Option NoticeReq) (outcome : ReleaseOutcome) :
    endRefused h status (some dec) notice.toList outcome s =
      releaseEnded delivers ⟨.done, BitVec.ofNat 32 outcome.code⟩
        (reportedByHold dec (maybeNoticed notice (heldRefused h status s))) := by
  have raised : raiseList notice.toList (refuseHeld h status s) =
      maybeNoticed notice (heldRefused h status s) := by
    cases notice <;> rfl
  unfold endRefused endDone
  rw [raised]
  refine endRelease_eq (t := reportedByHold dec _) (r := ⟨h, mark, phase, delivers⟩) ?_ _ nofun
  rw [reportedByHold_release, maybeNoticed_release, heldRefused_release, inProgress]

/-- The release of a request that lies in the aperture ends with no decision to report. -/
theorem endRefused_aperture {h : HoldSlot} {mark : Option Nat} {phase : ReleasePhase} {delivers : Bool}
    {s : State} (inProgress : s.hold.release = some ⟨h, mark, phase, delivers⟩) (n : NoticeReq) :
    endRefused h .refused none [n] .aperture s =
      releaseEnded delivers ⟨.done, 5⟩ (noticed n (heldRefused h .refused s)) := by
  refine endRelease_eq (t := noticed n (heldRefused h .refused s))
    (r := ⟨h, mark, phase, delivers⟩) ?_ _ nofun
  exact (heldRefused_release h .refused s).trans inProgress

/-! ### The release lookup -/

/-- A release lookup passes over HOLD entries, so it never decides HOLD (R21). -/
theorem releaseLookup_not_hold (s : State) (r : Request) (limit : Time) :
    (s.lookup true r).ruling ≠ .hold limit := by
  unfold State.lookup
  split
  · next a found =>
    have candidate := walk_candidate found
    cases action : a.entry.action with
    | hold => simp [Entry.candidate, action] at candidate
    | forward | reflect | refuse => simp only [Entry.ruling, action]; nofun
  · nofun
  · cases s.steering.defaults.get r.port <;> nofun

/-- The refusals that a release lookup outside the aperture can decide, with the status, the notice and the
outcome of each; the egress-down outcome among them (Table 4-2). -/
theorem releaseLookup_refusal {h : HoldSlot} {s : State} {dec : Decision} {status : AnswerStatus}
    {notice : Option NoticeReq} {outcome : ReleaseOutcome} (r : Release)
    (outside : ¬InAperture h.origin h.request s)
    (decided : s.lookup true (requestOf h.origin h.request) = dec)
    (ruled :
      (∃ route egress dest address timeout, dec.ruling = .steer route egress dest address timeout ∧
        (s.port egress).state ≠ .up ∧ status = .linkDown ∧ outcome = .egressDown ∧
        notice = if h.request.kind = .write then
          some (requestNoticed .refused h.origin h.request dec.label dec.generation 3) else none) ∨
      (∃ notify, dec.ruling = .refuse notify ∧ status = .refused ∧ outcome = .refused ∧
        notice = if notify then
          some (requestNoticed .refused h.origin h.request dec.label dec.generation 1) else none) ∨
      dec.ruling = .boundary ∧ status = .boundary ∧ outcome = .boundary ∧
        notice = some (requestNoticed .boundary h.origin h.request dec.label dec.generation 0) ∨
      dec.ruling = .defaultRefuse ∧ status = .refused ∧ outcome = .refused ∧
        notice = some (requestNoticed .refused h.origin h.request dec.label dec.generation 2)) :
    releaseLookup r h s = endRefused h status (some dec) notice.toList outcome s := by
  unfold releaseLookup
  rw [if_neg (by rw [← inAperture_iff]; exact outside), decided]
  dsimp only
  rcases ruled with ⟨_, _, _, _, _, ruling, notUp, rfl, rfl, rfl⟩ | ⟨_, ruling, rfl, rfl, rfl⟩ |
    ⟨ruling, rfl, rfl, rfl⟩ | ⟨ruling, rfl, rfl, rfl⟩
  · rw [ruling]
    dsimp only
    rw [if_pos notUp]
    split <;> rfl
  · rw [ruling]
    dsimp only
    split <;> rfl
  · rw [ruling]; rfl
  · rw [ruling]; rfl

/-- A release that steers its request through a port that is UP goes on to the offer or the allocation. -/
theorem releaseLookup_steered {h : HoldSlot} {s : State} {dec : Decision} {route : Route}
    {egress : Port} {dest : UnitNo} {address : Addr} {timeout : Time} (r : Release)
    (outside : ¬InAperture h.origin h.request s)
    (decided : s.lookup true (requestOf h.origin h.request) = dec)
    (ruling : dec.ruling = .steer route egress dest address timeout)
    (up : (s.port egress).state = .up) :
    releaseLookup r h s =
      setPhase r (if h.request.kind = .write then .pOffer dec else .allocate dec) s := by
  unfold releaseLookup
  rw [if_neg (by rw [← inAperture_iff]; exact outside), decided]
  dsimp only
  rw [ruling]
  dsimp only
  rw [if_neg (not_not.2 up)]
  split <;> rfl

/-- Settles O34, by what the release lookup decides. -/
theorem releaseIsDecided : Obligations.ReleaseIsDecided := by
  intro s h mark delivers lookup req ended
  have inProgress := lookup.1
  have step : exec .releaseSteps s = .next (releaseLookup ⟨h, mark, .lookup, delivers⟩ h s) :=
    releaseSteps_eq lookup
  refine ⟨fun inside => step.trans (congrArg _ ?_), fun outside dec decided => ?_⟩
  · unfold releaseLookup
    rw [if_pos ((inAperture_iff _ _ _).1 inside)]
    exact endRefused_aperture inProgress _
  have refused {status notice outcome} := fun ruled =>
    step.trans (congrArg _ ((releaseLookup_refusal (status := status) (notice := notice)
      (outcome := outcome) _ outside decided.symm ruled).trans
      (endRefused_decided inProgress status dec notice outcome)))
  refine ⟨fun route egress dest address timeout ruling => ⟨fun up => ?_, fun notUp => ?_⟩,
    fun notify ruling => ?_, fun ruling => ?_, fun ruling => ?_, fun limit => ?_⟩
  · rw [step, releaseLookup_steered _ outside decided.symm ruling up]
    exact congrArg _ (setPhase_eq inProgress _ rfl)
  · exact refused (.inl ⟨_, _, _, _, _, ruling, notUp, rfl, rfl, rfl⟩)
  · exact refused (.inr (.inl ⟨_, ruling, rfl, rfl, rfl⟩))
  · exact refused (.inr (.inr (.inl ⟨ruling, rfl, rfl, rfl⟩)))
  · exact refused (.inr (.inr (.inr ⟨ruling, rfl, rfl, rfl⟩)))
  · rw [decided]; exact releaseLookup_not_hold _ _ limit

end Sys2Proof
end

section
/-! PROOFS. COMMIT: the refusals, the swap and the start of its drain (R92 to R96). -/

namespace Sys2Proof

open Machine

/-- The cooling indicator: a drain fence tag cools, or a fence slot is taken (R92). -/
theorem coolingIndicator_iff (s : State) : coolingIndicator s = true ↔
    (∃ m ∈ s.tracker.cooling, m.tag = 126 ∨ m.tag = 127) ∨
      (s.port .u).fenceSlot ≠ none ∨ (s.port .d).fenceSlot ≠ none := by
  have tags : s.tracker.isCooling (fenceTag .u) = true ∨ s.tracker.isCooling (fenceTag .d) = true ↔
      ∃ m ∈ s.tracker.cooling, m.tag = 126 ∨ m.tag = 127 := by
    simp only [Tracker.isCooling, List.any_eq_true, decide_eq_true_eq, ← exists_or, ← and_or_left]
    rfl
  unfold coolingIndicator
  simp only [Bool.or_eq_true, tags, Option.isSome_iff_ne_none, or_assoc]
  rfl

/-! ### The swap -/

/-- The part as a swap is taken, before its drain can end. -/
def swapBegun (s : State) : State :=
  { s with
    steering := s.steering.swap
    tracker := s.tracker.addFences s
    ports := ⟨s.ports.u.placeFence .u (s.unit .u), s.ports.d.placeFence .d (s.unit .d)⟩
    commit := s.commit.start s (s.tracker.addFences s).entries.length }

/-- A drain that has entries to wait for goes on after the swap. -/
theorem takeSwap_goesOn {s : State} (entries : (s.tracker.addFences s).entries ≠ []) :
    takeSwap s = unmarked (swapBegun s) := by
  have left : ¬((swapBegun s).commit.state = .draining ∧ (swapBegun s).commit.remaining = 0) :=
    fun ⟨_, zero⟩ => entries (List.length_eq_zero_iff.1 zero)
  have settled : settleDrain (swapBegun s) = (swapBegun s, []) := if_neg left
  change clearAllMarks (raiseList (settleDrain (swapBegun s)).2 (settleDrain (swapBegun s)).1) = _
  rw [settled]
  rfl

/-- A drain with nothing to wait for ends with the swap, LATE when a port's fence was skipped. -/
theorem takeSwap_ends {s : State} (entries : (s.tracker.addFences s).entries = []) :
    let skipped := decide ((s.port .u).state = .retraining ∨ (s.port .d).state = .retraining)
    let ended := { (swapBegun s).commit with
      state := .idle, lastOutcome := if skipped then .late else .clean, done := s.timebase }
    takeSwap s = unmarked (noticed (commitDoneFor ended) { swapBegun s with commit := ended }) := by
  intro skipped ended
  have finished : (swapBegun s).commit.state = .draining ∧ (swapBegun s).commit.remaining = 0 :=
    ⟨rfl, List.length_eq_zero_iff.2 entries⟩
  have outcome : (swapBegun s).commit.outcome = if skipped then .late else .clean := by
    have late : (swapBegun s).commit.late = ⟨false, false, false, skipped⟩ := by
      simp only [swapBegun, Commit.start, skipped, Bool.decide_or]; rfl
    have forced : (swapBegun s).commit.forced = false := rfl
    rw [outcome_eq, outcomeOf, forced, late]
    simp
  have settled : settleDrain (swapBegun s) =
      ({ swapBegun s with commit := ended }, [commitDoneFor ended]) := by
    unfold settleDrain
    rw [if_pos finished]
    dsimp only
    rw [outcome, ← commitDoneNotice_eq]
    rfl
  change clearAllMarks (raiseList (settleDrain (swapBegun s)).2 (settleDrain (swapBegun s)).1) = _
  rw [settled]
  rfl

/-- The drain fence entries of a swap, one for each port that is UP (R47). -/
theorem addFences_entries (s : State) : (s.tracker.addFences s).entries = s.tracker.entries ++
    (if (s.port .u).state = .up then [drainFenceEntry s .u s.generation] else []) ++
    (if (s.port .d).state = .up then [drainFenceEntry s .d s.generation] else []) := by
  have ups : upPorts s = (if (s.port .u).state = .up then [.u] else []) ++
      (if (s.port .d).state = .up then [.d] else []) := by
    unfold upPorts
    simp only [List.filter_cons, List.filter_nil, decide_eq_true_eq]
    split_ifs <;> rfl
  unfold Tracker.addFences
  rw [ups]
  split_ifs <;> simp

/-- Settles O42: the two refusals, and the swap with its drain begun or over. -/
theorem commitIsTaken : Obligations.CommitIsTaken := by
  intro s slot rest takes gen cools
  have cooling := coolingIndicator_iff s
  have ran {r : Result} {t : State} (result : runCommit s = (r, t))
      (queue : t.mgmt.queue = s.mgmt.queue) :
      exec .commit s = .next (answered slot rest r (singleIndex r) t) :=
    congrArg _ (takeCommand_eq takes result queue)
  refine ⟨fun draining => ran (if_pos draining) rfl, fun idle cools => ran ?_ rfl, ?_⟩
  · unfold runCommit
    rw [idle, if_neg nofun, if_pos (cooling.2 cools)]
  intro idle ready fence fenced entries fenceState skipped swapped started result
  have accepted : runCommit s = (result, takeSwap s) := by
    have generation : (takeSwap s).generation = gen + 1 := by
      simp [State.generation, takeSwap, Steering.swap, gen]
    unfold runCommit
    rw [idle, if_neg nofun, if_neg fun indicated => ready (cooling.1 indicated)]
    dsimp only
    rw [generation]
  have ran := ran accepted (congrArg Management.queue (takeSwap_mgmt s))
  have allEntries : (s.tracker.addFences s).entries = entries := addFences_entries s
  have start : (swapBegun s).commit = started := by
    unfold swapBegun
    dsimp only
    rw [allEntries]
    simp only [Commit.start, started, skipped, Bool.decide_or]
    rfl
  have begun : swapBegun s = { swapped with commit := started } := by
    rw [← start]
    simp only [swapped, ← allEntries]
    rfl
  refine ⟨fun held => ?_, fun nothing => ?_⟩
  · rw [ran, takeSwap_goesOn (allEntries ▸ held), begun]
    rfl
  · intro ended
    rw [ran, takeSwap_ends (allEntries.trans nothing), begun]
    rfl

end Sys2Proof
end

section
/-! PROOFS. SET_PARAM: the parameter and value that the bytes name, and the conditions on it (R123, R124). -/

namespace Sys2Proof

open Machine

/-! ### The parameter and value of a body (Table 11-6) -/

theorem field_one (bytes : List Byte) (o : Nat) : field bytes o 1 = (byteAt bytes o).toNat := by
  unfold field byteAt
  cases rest : bytes.drop o with
  | nil => simp [ofLE, List.drop_eq_nil_iff.1 rest]
  | cons b l =>
    have here : bytes[o]? = some b := by
      rw [← Nat.add_zero o, ← List.getElem?_drop, rest]; rfl
    simp [ofLE, List.getD, here]

theorem replyTimeoutInRange_iff (body : List Byte) :
    replyTimeoutInRange (BitVec.ofNat 32 (field body 2 4)) = true ↔
      100 ≤ field body 2 4 ∧ field body 2 4 ≤ 2000000 := by
  have bound : field body 2 4 < 4294967296 := field_lt body 2 4
  simp [replyTimeoutInRange, Nat.mod_eq_of_lt bound]

theorem holdLimitInRange_iff (body : List Byte) :
    holdLimitInRange (BitVec.ofNat 32 (field body 2 4)) = true ↔
      10 ≤ field body 2 4 ∧ field body 2 4 ≤ 1000000 := by
  have bound : field body 2 4 < 4294967296 := field_lt body 2 4
  simp [holdLimitInRange, Nat.mod_eq_of_lt bound]

section Codes

variable {body : List Byte} {p : Port}

theorem paramOf_noCode (code : (byteAt body 0).toNat = 0 ∨ 9 < (byteAt body 0).toNat) :
    paramOf body = none := by
  unfold paramOf
  split
  case h_10 => rfl
  all_goals omega

theorem paramOf_replyTimeout (code : (byteAt body 0).toNat = 1) : paramOf body =
    (inRange replyTimeoutInRange (BitVec.ofNat 32 (field body 2 4))).map .replyTimeout := by
  unfold paramOf; rw [code]; rfl

theorem paramOf_holdLimit (code : (byteAt body 0).toNat = 2) : paramOf body =
    (inRange holdLimitInRange (BitVec.ofNat 32 (field body 2 4))).map .holdLimit := by
  unfold paramOf; rw [code]; rfl

theorem paramOf_default (code : (byteAt body 0).toNat = match p with | .u => 3 | .d => 4) :
    paramOf body = (defaultOf (byteAt body 2) (byteAt body 3)).map (.default p) := by
  unfold paramOf; rw [code]; cases p <;> rfl

theorem paramOf_noticeTarget (code : (byteAt body 0).toNat = 5) :
    paramOf body = (noticeTargetOf body).map .noticeTarget := by
  unfold paramOf; rw [code]; rfl

theorem paramOf_unit (code : (byteAt body 0).toNat = match p with | .u => 6 | .d => 7) :
    paramOf body = some (.unit p (BitVec.ofNat 5 (field body 2 1))) := by
  unfold paramOf; rw [code]; cases p <;> rfl

theorem paramOf_linkPref (code : (byteAt body 0).toNat = match p with | .u => 8 | .d => 9) :
    paramOf body = (offerOf (byteAt body 2) (byteAt body 3)).map (.linkPref p) := by
  unfold paramOf; rw [code]; cases p <;> rfl

end Codes

/-- The default action that a code byte and a target byte name. -/
theorem defaultOf_iff (body : List Byte) (a : DefaultAction) :
    defaultOf (byteAt body 2) (byteAt body 3) = some a ↔
      byteAt body 2 = 1 ∧ a = .refuse ∨
        byteAt body 2 = 2 ∧ a = .pass (BitVec.ofNat 5 (field body 3 1)) := by
  have target : BitVec.ofNat 5 (field body 3 1) = (byteAt body 3).setWidth 5 := by
    rw [field_one, BitVec.ofNat_toNat]
  rw [target]
  unfold defaultOf
  split_ifs with refuses passes
  · simp [refuses, eq_comm]
  · simp [passes, eq_comm]
  · refine ⟨nofun, ?_⟩
    rintro (⟨one, -⟩ | ⟨two, -⟩)
    · exact absurd one refuses
    · exact absurd two passes

/-- The notice target that a body names, when its address and enable byte allow one. -/
theorem noticeTargetOf_eq (body : List Byte) : noticeTargetOf body =
    if field body 2 6 % 32 = 0 ∧ (byteAt body 9 = 0 ∨ byteAt body 9 = 1) then
      some ⟨BitVec.ofNat 48 (field body 2 6), BitVec.ofNat 5 (field body 8 1), byteAt body 9 = 1⟩
    else none := by
  have address : (BitVec.ofNat 48 (field body 2 6)).toNat = field body 2 6 :=
    (BitVec.toNat_ofNat _ _).trans (Nat.mod_eq_of_lt (field_lt body 2 6))
  unfold noticeTargetOf
  dsimp only
  rw [address]

/-- What bars a change of a bridge unit: an entry that targets the new unit on the port, a default action
that passes to it, or the notice target (R124). -/
theorem unitBarred_iff (p : Port) (n : UnitNo) (s : State) : unitBarred p n s = true ↔
    (∃ a ∈ s.steering.active, a.entry.target = some n ∧ LeavesBy a.entry p) ∨
      (∃ e ∈ s.steering.staging, e.target = some n ∧ LeavesBy e p) ∨
      s.steering.defaults.get (otherPort p) = .pass n ∨
      p = .u ∧ s.mgmt.params.noticeTarget.unit = n := by
  simp [unitBarred, Entry.targets, mem_egressPorts_iff, or_assoc]

/-- Settles O44, parameter by parameter. -/
theorem parameterIsSet : Obligations.ParameterIsSet := by
  intro s slot rest body takes ps code refused set withParams micros
  have ran {r : Result} {t : State} (result : runSetParam body s = (r, t))
      (queue : t.mgmt.queue = s.mgmt.queue) :
      exec .setParam s = .next (answered slot rest r (singleIndex r) t) :=
    congrArg _ (takeCommand_eq takes result queue)
  have refuses (unnamed : paramOf body = none) : refused :=
    ran (r := refusal .badField) (t := s) (by unfold runSetParam; rw [unnamed]) rfl
  have bars {v} (named : paramOf body = some v) (barred : setParam v s = (refusal .badField, s)) :
      refused :=
    ran (r := refusal .badField) (t := s) (by unfold runSetParam; rw [named]; exact barred) rfl
  have sets {v t} (named : paramOf body = some v) (taken : setParam v s = (doneResult, t))
      (queue : t.mgmt.queue = s.mgmt.queue) : set t :=
    ran (by unfold runSetParam; rw [named]; exact taken) queue
  refine ⟨fun is => refuses (paramOf_noCode is), fun is => ?_, fun is => ?_, fun p is => ?_,
    fun is => ?_, fun p is => ?_, fun p is => ?_⟩
  · have named := paramOf_replyTimeout is
    refine ⟨fun within => sets (v := .replyTimeout _) (named.trans ?_) rfl rfl,
      fun outside => refuses (named.trans ?_)⟩
    · rw [inRange, if_pos ((replyTimeoutInRange_iff body).2 within)]; rfl
    · rw [inRange, if_neg]
      · rfl
      · rw [replyTimeoutInRange_iff]; omega
  · have named := paramOf_holdLimit is
    refine ⟨fun within => sets (v := .holdLimit _) (named.trans ?_) rfl rfl,
      fun outside => refuses (named.trans ?_)⟩
    · rw [inRange, if_pos ((holdLimitInRange_iff body).2 within)]; rfl
    · rw [inRange, if_neg]
      · rfl
      · rw [holdLimitInRange_iff]; omega
  · have named := paramOf_default is
    refine ⟨fun notOne notTwo => refuses (named.trans ?_), fun a coded => ?_⟩
    · have nothing : defaultOf (byteAt body 2) (byteAt body 3) = none :=
        Option.eq_none_iff_forall_ne_some.2 fun a coded => by
          rcases (defaultOf_iff body a).1 coded with ⟨one, -⟩ | ⟨two, -⟩
          · exact notOne one
          · exact notTwo two
      rw [nothing]; rfl
    · rw [(defaultOf_iff body a).2 coded] at named
      exact ⟨fun own => bars named (if_pos own),
        fun other same => sets named ((if_neg other).trans (if_pos same)) rfl,
        fun other new => sets named ((if_neg other).trans (if_neg new)) rfl⟩
  · intro unit enable allowed
    have named := paramOf_noticeTarget is
    rw [noticeTargetOf_eq] at named
    refine ⟨fun barred => ?_, fun ⟨multiple, flag, other⟩ => ?_⟩
    · by_cases formed : field body 2 6 % 32 = 0 ∧ (enable = 0 ∨ enable = 1)
      · rw [if_pos formed] at named
        have own : unit = ps.unit.u := not_not.1 fun other => barred ⟨formed.1, formed.2, other⟩
        exact bars named (if_pos own)
      · rw [if_neg formed] at named
        exact refuses named
    · rw [if_pos ⟨multiple, flag⟩] at named
      exact sets named (if_neg other) rfl
  · intro n barred
    have named := paramOf_unit is
    have bar := unitBarred_iff p n s
    exact ⟨fun same => sets named (if_pos same) rfl,
      fun new is => bars named ((if_neg new).trans (if_pos (bar.2 is))),
      fun new free => sets named ((if_neg new).trans (if_neg fun is => free (bar.1 is))) rfl⟩
  · have named := paramOf_linkPref is
    refine ⟨fun noOffer => refuses (named.trans ?_), fun o offers => ?_⟩
    · have nothing : offerOf (byteAt body 2) (byteAt body 3) = none :=
        Option.eq_none_iff_forall_ne_some.2 fun o offered => noOffer o ((offers_iff _ _ _).2 offered)
      rw [nothing]; rfl
    · rw [(offers_iff _ _ _).1 offers] at named
      exact sets named rfl rfl

end Sys2Proof
end

section
/-! PROOFS. WARM_RESET: its reply, and what its placement makes of every block (R127, R128). -/

namespace Sys2Proof

open Machine

/-! ### What each block makes of the warm reset -/

/-- Members dropped or changed one by one: those that stay, each changed. -/
theorem filterMap_ite {α β : Type} (gone : α → Prop) [DecidablePred gone] (f : α → β) (l : List α) :
    (l.filterMap fun a => if gone a then none else some (f a)) =
      (l.filter fun a => ¬gone a).map f := by
  induction l with
  | nil => rfl
  | cons a l ih => by_cases h : gone a <;> simp [h, ih]

/-- The entries that a warm reset removes to the cooling set (R68). -/
abbrev WarmRemoved (e : TrackEntry) : Prop :=
  e.state = .orphaned ∨ e.state = .awaiting ∧ e.kind = .drainFence

theorem warmFate_eq (gen : Gen) (event : Nat) (e : TrackEntry) : warmFate gen event e =
    if WarmRemoved e then .cool .aborted
    else .stay { e with
      generation := gen
      state := if e.state = .awaiting then .closing .aborted event else e.state } := by
  obtain ⟨_, state, kind, _, _, _, _, _, _, _, _, _, _⟩ := e
  cases state with
  | awaiting => by_cases fence : kind = .drainFence <;> simp [warmFate, TrackEntry.close, fence]
  | orphaned => simp [warmFate]
  | closing status i => simp [warmFate]

/-- The tracker when an event removes some entries with one cause and changes the others. -/
theorem settle_eq {fate : TrackEntry → Fate} {gone : TrackEntry → Prop} [DecidablePred gone]
    {cause : Cause} {f : TrackEntry → TrackEntry}
    (fates : ∀ e, fate e = if gone e then .cool cause else .stay (f e)) (t : Tracker) (now : Time) :
    t.settle now fate = { t with
      entries := (t.entries.filter fun e => ¬gone e).map f
      cooling := t.cooling ++ (t.entries.filter fun e => gone e).map
        fun e => ⟨e.tag, now + e.timeout⟩ } := by
  have stay : (t.settle now fate).entries = (t.entries.filter fun e => ¬gone e).map f :=
    (List.filterMap_congr fun e _ => by rw [fates]; by_cases out : gone e <;> simp [out]).trans
      (filterMap_ite gone f t.entries)
  have cool : removals fate t.entries =
      (t.entries.filter fun e => gone e).map fun e => ⟨e, cause⟩ :=
    (List.filterMap_congr (g := fun e => if ¬gone e then none else some ⟨e, cause⟩)
      fun e _ => by rw [fates]; by_cases out : gone e <;> simp [out]).trans
      (by rw [filterMap_ite]; simp only [not_not])
  calc t.settle now fate
      = { t with
          entries := (t.settle now fate).entries
          cooling := t.cooling ++ (removals fate t.entries).map
            fun r => ⟨r.entry.tag, now + r.entry.timeout⟩ } := rfl
    _ = _ := by rw [stay, cool, List.map_map]; rfl

theorem filterMap_warmSlot (slots : List HoldSlot) (event : Nat) :
    slots.filterMap (warmSlot event) =
      (slots.filter fun h => ¬(isHeld h = true ∧ h.request.kind = .write)).map
        (fun h => if isHeld h then { h with state := .answering .aborted event } else h) := by
  refine (List.filterMap_congr fun h _ => ?_).trans
    (filterMap_ite (fun h => isHeld h = true ∧ h.request.kind = .write) _ slots)
  obtain ⟨_, state, _, request, _, _, _, _⟩ := h
  cases state with
  | held d => by_cases write : request.kind = .write <;> simp [warmSlot, isHeld, write]
  | answering status i => simp [warmSlot, isHeld]

/-- The ingress queues of a port after the warm reset (R43). -/
theorem warmIngress_eq (lp : LinkPort) (tagged : Bool) : lp.warmIngress tagged = { lp with
    ingress := ⟨[], (if tagged then lp.ingress.n.tail else lp.ingress.n).map
      fun k => { k with aborted := true }, lp.ingress.c⟩
    ackOwed := lp.ackOwed || decide (lp.ingress.p ≠ []) || tagged && decide (lp.ingress.n ≠ []) } := by
  have held : ∀ l : List InSlot, (!l.isEmpty) = decide (l ≠ []) := fun l => by cases l <;> rfl
  unfold LinkPort.warmIngress
  simp only [held]

/-- The Commit Status after the warm reset: a drain in progress ends ABANDONED (R103). -/
def drainAbandoned (now : Time) (c : Commit) : Commit :=
  if c.state = .draining then
    { c with
      state := .idle, remaining := 0
      fences := ⟨if c.fences.u = .outstanding then .aborted else c.fences.u,
        if c.fences.d = .outstanding then .aborted else c.fences.d⟩
      lastOutcome := .abandoned, done := now }
  else c

/-- The notice of a drain that the warm reset ends. -/
def abandonedNotices (c : Commit) : List NoticeReq :=
  if c.state = .draining then [commitDoneFor { c with lastOutcome := .abandoned }] else []

theorem commitWarmReset_eq (s : State) : commitWarmReset s =
    ({ s with commit := drainAbandoned s.timebase s.commit }, abandonedNotices s.commit) := by
  have abandon : ∀ f : FenceState, f.abandon = if f = .outstanding then .aborted else f :=
    fun f => by cases f <;> rfl
  unfold commitWarmReset drainAbandoned abandonedNotices
  split
  · rw [← commitDoneNotice_eq]
    simp only [Duo.map, abandon]
  · rfl

/-! ### The warm reset as a whole -/

/-- The warm reset of every block at once, but for the notices; `events` is the number of its first event. -/
def blocksReset (s : State) : State :=
  { s with
    mgmt := s.mgmt.warmReset
    steering := s.steering.warmReset
    ports := ⟨s.ports.u.warmIngress (s.dispatchers.u.work.any Work.hasTag),
      s.ports.d.warmIngress (s.dispatchers.d.work.any Work.hasTag)⟩
    dispatchers := s.dispatchers.map fun d => { d with marks := ⟨[], [], []⟩, work := none }
    tracker := s.tracker.settle s.timebase (warmFate (s.generation + 1) s.events)
    hold := { s.hold with slots := s.hold.slots.filterMap (warmSlot (s.events + 1)) }
    commit := drainAbandoned s.timebase s.commit
    events := s.events + 2 }

/-- The warm reset is that of every block, with the notices of the Hold Queue and the commit controller
merged in some order and WARM_RESET_DONE after them. -/
theorem warmResetAll_eq (s : State) :
    let drops := (s.hold.slots.filter fun h => isHeld h).map (holdNoticed .holdDropped)
    ∃ order : List NoticeReq, order.Perm (drops ++ abandonedNotices s.commit) ∧
      drops.Sublist order ∧
      warmResetAll s = { blocksReset s with
        events := s.events + 3
        notices := (order ++ [warmResetNotice (s.generation + 1)]).foldl
          (fun n r => n.take s.timebase r) s.notices } := by
  intro drops
  obtain ⟨order, perm, kept, raised⟩ :=
    raiseTogether_eq [drops, abandonedNotices s.commit] (blocksReset s)
  refine ⟨order, by simpa using perm, kept drops (by simp), ?_⟩
  unfold warmResetAll
  dsimp only
  rw [commitWarmReset_eq]
  -- No block's part of the warm reset reads what another's has changed, but for the new generation.
  change raise _ (raiseTogether [drops, abandonedNotices s.commit] (blocksReset s)) = _
  rw [raised, List.foldl_append]
  rfl

/-- The reply of a WARM_RESET at the head, offered to U's C transmit queue (R116, R127). -/
theorem commandReplyPlacement_warm {slot : CommandSlot} {rest : List CommandSlot}
    {status : ReplyStatus} {payload : List Byte} {s : State} (queue : s.mgmt.queue = slot :: rest)
    (ready : slot.state = .answerReady ⟨status, payload, true⟩) :
    (¬TakesOffer .u .c s → exec .commandReplyPlacement s = .next s) ∧
    (TakesOffer .u .c s → exec .commandReplyPlacement s =
      .next (warmResetAll (accessReplied slot rest status payload s))) := by
  have offered : exec .commandReplyPlacement s = .next (offerReply s) := by
    simp only [exec, execCommandReplyPlacement]
    rw [captureRead_eq queue (by rw [ready]; nofun)]
  rw [offered, takesOffer_iff]
  unfold offerReply
  rw [queue]
  dsimp only
  refine ⟨fun full => by rw [if_neg full], fun room => ?_⟩
  rw [if_pos room, ready]
  dsimp only
  rw [placeReply_eq status payload queue]
  rfl

/-- Settles O49: the reply is formed, and placing it is the warm reset of every block. -/
theorem warmResetIsPerformed : Obligations.WarmResetIsPerformed := by
  refine ⟨fun s slot rest takes => ?_, fun s slot rest status payload queue ready => ?_⟩
  · simp only [exec, execWarmReset, takeWarmReset, headCommand_of_takes takes]
    rw [setHeadState_eq _ takes.2.1]
    rfl
  obtain ⟨full, room⟩ := commandReplyPlacement_warm queue ready
  refine ⟨full, fun takes => ?_⟩
  intro u gen kept
  obtain ⟨order, perm, drops, reset⟩ := warmResetAll_eq u
  refine ⟨_, room takes, ?_⟩
  rw [reset]
  refine ⟨rfl, rfl, fun p => ?_, ?_, ?_, fun idle => ?_, fun draining => ?_, ?_, rfl, rfl⟩
  · intro lp tagged n
    have work : (s.dispatcher p).work.any Work.hasTag = tagged := by
      simp only [tagged]
      cases (s.dispatcher p).work with
      | none => rfl
      | some w => cases w <;> rfl
    have left : (blocksReset u).port p = lp.warmIngress tagged := by
      rw [← work]; cases p <;> rfl
    exact ⟨left.trans (warmIngress_eq lp tagged), by cases p <;> rfl⟩
  · exact settle_eq (warmFate_eq gen s.events) s.tracker s.timebase
  · exact congrArg (fun slots => { s.hold with slots := slots })
      (filterMap_warmSlot s.hold.slots (s.events + 1))
  · exact if_neg (show s.commit.state ≠ .draining by rw [idle]; nofun)
  · exact if_pos draining
  · exact ⟨order, perm, drops, rfl⟩

end Sys2Proof
end

section
/-! PROOFS. The head that a free dispatcher takes, and the dispatch of a reply, of an aborted or malformed
head, and of a request that goes on to another block. -/

namespace Sys2Proof

open Machine

/-! ### Which head is taken (R27 to R30) -/

/-- The first channel of a cycle that passes a test: it passes, and those before it do not. -/
theorem find?_cycle (test : Chan → Bool) (first ch : Chan) :
    first.cycle.find? test = some ch ↔ test ch = true ∧
      (ch = first ∨ ch = first.next ∧ ¬test first = true ∨
        ch = first.next.next ∧ ¬test first = true ∧ ¬test first.next = true) := by
  unfold Chan.cycle
  cases here : test first with
  | true =>
    rw [List.find?_cons_of_pos here]
    simp only [Option.some.injEq, not_true, false_and, and_false, or_false]
    exact ⟨fun eq => ⟨eq ▸ here, eq.symm⟩, fun taken => taken.2.symm⟩
  | false =>
    rw [List.find?_cons_of_neg (by rw [here]; nofun)]
    cases next : test first.next with
    | true =>
      rw [List.find?_cons_of_pos next]
      constructor
      · rintro ⟨⟩; exact ⟨next, .inr (.inl ⟨rfl, nofun⟩)⟩
      · rintro ⟨passes, rfl | ⟨rfl, _⟩ | ⟨_, _, no⟩⟩
        · rw [here] at passes; cases passes
        · rfl
        · exact absurd rfl no
    | false =>
      rw [List.find?_cons_of_neg (by rw [next]; nofun), List.find?_singleton]
      constructor
      · intro found
        split at found
        · next last => cases found; exact ⟨last, .inr (.inr ⟨rfl, nofun, nofun⟩)⟩
        · cases found
      · rintro ⟨passes, rfl | ⟨rfl, _⟩ | ⟨rfl, _, _⟩⟩
        · rw [here] at passes; cases passes
        · rw [next] at passes; cases passes
        · rw [if_pos passes]

/-- Settles O15: the chosen head is the first eligible channel of the cycle. -/
theorem firstEligibleHeadIsTaken : Obligations.FirstEligibleHeadIsTaken := by
  refine ⟨⟨rfl, rfl, rfl⟩, fun p s ch => ?_⟩
  intro lp d
  simp only [headEligible_iff]
  rw [← find?_cycle (eligible lp d)]
  have choice : chosenHead p s =
      if d.work.isSome then none else d.pointer.cycle.find? (eligible lp d) := rfl
  rw [choice]
  cases d.work with
  | none => simp
  | some w => simp

/-! ### Replies and aborted heads (R29, R43) -/

/-- The dispatch of an N head that a warm reset has marked aborted. -/
theorem dispatch_aborted {p : Port} {slot : InSlot} {s : State} (taken : TakesHead p .n slot s)
    (aborted : slot.aborted = true) :
    exec (.dispatch p) s = .next
      (if offerAnswer p .c s = .accepted then headLeft p .n (repliedTo p slot.packet .aborted s)
       else headDropped p .n [.transmit p .c] s) := by
  rw [dispatch_takesHead taken, if_neg nofun]
  unfold dispatchRequest
  dsimp only
  rw [if_pos aborted]
  rfl

/-- Settles O16: the C head goes to the tracker, the aborted one is answered where there is C space. -/
theorem repliesAndAbortedHeadsAreDispatched : Obligations.RepliesAndAbortedHeadsAreDispatched := by
  refine fun p s slot => ⟨fun taken => ?_, fun taken aborted => ?_⟩
  · rw [dispatch_takesHead taken, if_pos rfl]; rfl
  · rw [dispatch_aborted taken aborted, takesOffer_iff]
    exact ⟨fun room => congrArg _ (if_pos room), fun full => congrArg _ (if_neg full)⟩

/-! ### Malformed heads (R31) -/

/-- A malformed posted write: the check it fails first gives the detail of the notice. -/
theorem malformation_of_write {unit : UnitNo} {req : Packet} (write : req.kind = .write)
    (malformed : Malformed unit req) :
    ∃ why, malformation unit req = some why ∧ why.detail =
      if req.length = 0 ∨ 256 < req.length.toNat then 1
      else if 2 ^ 48 < req.address.toNat + req.length.toNat then 2
      else if req.dest ≠ unit then 3 else 4 := by
  obtain ⟨why, fails⟩ := Option.isSome_iff_exists.1 ((malformed_iff unit req).1 malformed)
  refine ⟨why, fails, ?_⟩
  have zero : req.length = 0 ↔ req.length.toNat = 0 :=
    ⟨fun h => by rw [h]; rfl, fun h => BitVec.eq_of_toNat_eq h⟩
  have most : Config.maxPayload = 256 := rfl
  simp only [malformation, write, PacketKind.isAccess, most, Bool.not_true, Bool.false_and,
    Bool.true_and, reduceCtorEq, decide_false, Bool.false_eq_true, if_false, Bool.or_eq_true,
    decide_eq_true_eq, ← zero] at fails
  split_ifs at fails ⊢ <;> cases fails <;> rfl

/-- The dispatch of a malformed P or N head. -/
theorem dispatch_malformed {p : Port} {ch : Chan} {slot : InSlot} {s : State} {why : Malformation}
    (taken : TakesHead p ch slot s) (notC : ch ≠ .c) (notAborted : slot.aborted = false)
    (fails : malformation (s.mgmt.params.unit.get p) slot.packet = some why) :
    exec (.dispatch p) s = .next (refuseMalformed p ch slot.packet why s) := by
  rw [dispatch_takesHead taken, if_neg notC]
  unfold dispatchRequest
  dsimp only
  rw [if_neg (by rw [notAborted]; nofun), show malformation (s.unit p) slot.packet = _ from fails]

/-- Settles O17: a malformed head is refused as UNSUPPORTED. -/
theorem malformedHeadIsRefused : Obligations.MalformedHeadIsRefused := by
  intro p s ch slot req unit taken notC notAborted malformed
  refine ⟨fun write => ?_, fun other => ?_⟩
  · obtain ⟨why, fails, detail⟩ := malformation_of_write write malformed
    rw [dispatch_malformed taken notC notAborted fails, ← detail]
    unfold refuseMalformed
    rw [refuse_write _ _ _ _ _ _ _ write, if_pos write]
    have untagged : malformedNotice p req why s =
        requestNoticed .malformed p req 0 s.steering.generation why.detail := by
      unfold malformedNotice requestNotice requestNoticed
      rw [if_pos write]; rfl
    exact congrArg _ (congrArg (noticed · (headLeft p ch s)) untagged)
  · obtain ⟨why, fails⟩ := Option.isSome_iff_exists.1 ((malformed_iff unit req).1 malformed)
    rw [dispatch_malformed taken notC notAborted fails]
    unfold refuseMalformed
    rw [if_neg other]
    exact ⟨fun room => congrArg _ (refuse_placed _ _ _ _ _ _ _ other room),
      fun full => congrArg _ (refuse_dropped _ _ _ _ _ _ _ other full)⟩

/-! ### Requests that go on (R34, R35, R38, R39) -/

/-- A steered request whose egress port is UP goes on to its offer or its allocation. -/
theorem carryOut_steered {dec : Decision} {route : Route} {egress : Port} {dest : UnitNo}
    {address : Addr} {timeout : Time} (p : Port) (ch : Chan) (req : Packet) {s : State}
    (ruling : dec.ruling = .steer route egress dest address timeout)
    (up : (s.port egress).state = .up) :
    carryOut p ch req dec s =
      dispatchGoesOn p (if req.kind = .write then .pOffer dec else .allocate dec) s := by
  unfold carryOut
  rw [ruling]
  dsimp only
  rw [if_neg (not_not.2 up)]
  split <;> rfl

/-- A request that is held goes on to the Hold Queue. -/
theorem carryOut_hold {dec : Decision} {limit : Time} (p : Port) (ch : Chan) (req : Packet)
    (s : State) (ruling : dec.ruling = .hold limit) :
    carryOut p ch req dec s = dispatchGoesOn p (.holdOffer ch dec) s := by
  unfold carryOut
  rw [ruling]
  rfl

/-- Settles O19: the decisions that go on, and the FENCE by the state of the opposite port. -/
theorem steeredHeldAndFenceRequestsGoOn : Obligations.SteeredHeldAndFenceRequestsGoOn := by
  refine ⟨fun p s ch req dec decides => ⟨fun route egress dest address timeout ruling up => ?_,
    fun limit ruling => ?_⟩, fun p s ch req taken fence => ?_⟩
  · rw [dispatch_decides decides, carryOut_steered p ch req ruling up]
  · rw [dispatch_decides decides, carryOut_hold p ch req s ruling]
  · have other : req.kind ≠ .write := by rw [fence]; nofun
    rw [dispatch_takesRequest taken, if_pos fence]
    unfold fenceDispatch
    refine ⟨fun up => congrArg _ (if_pos up), fun notUp room => ?_, fun notUp full => ?_⟩
    · rw [if_neg (show (s.port (otherPort p)).state ≠ .up from notUp),
        refuse_placed _ _ _ _ _ _ _ other room]
      rfl
    · rw [if_neg (show (s.port (otherPort p)).state ≠ .up from notUp),
        refuse_dropped _ _ _ _ _ _ _ other full]

end Sys2Proof
end

section
/-! PROOFS. What the transmit queues, the tag pool and the Hold Queue answer to the offers of a dispatch, and
what a dispatcher makes of each answer. -/

namespace Sys2Proof

open Machine

/-! ### A dispatch that waits -/

theorem waits_work {p : Port} {ch : Chan} {w : Work} {req : Packet} {s : State}
    (waits : WaitsWith p ch w req s) : (s.dispatcher p).work = some w := waits.1

theorem waits_head {p : Port} {ch : Chan} {w : Work} {req : Packet} {s : State}
    (waits : WaitsWith p ch w req s) : headPacket p ch s = some req := waits.2

/-! ### The answers to an offer, an allocation and a placement (R147, R50, R35) -/

/-- A P offer under a decision of an earlier generation is stale, whatever the port (R34). -/
theorem pOfferAnswer_stale {egress : Port} {dec : Decision} {s : State}
    (stale : dec.generation ≠ s.steering.generation) : pOfferAnswer egress dec s = .stale :=
  if_pos stale

/-- A P offer under a current decision is answered as the egress P transmit queue answers. -/
theorem pOfferAnswer_current {egress : Port} {dec : Decision} {s : State}
    (current : dec.generation = s.steering.generation) :
    (TakesOffer egress .p s → pOfferAnswer egress dec s = .accepted) ∧
    (RefusesAsFull egress .p s → pOfferAnswer egress dec s = .full) ∧
    (RefusesAsDown egress s → pOfferAnswer egress dec s = .down) := by
  unfold pOfferAnswer
  rw [if_neg (show ¬dec.generation ≠ s.generation from not_not.2 current)]
  refine ⟨fun room => ?_, fun full => ?_, fun down => ?_⟩
  · rw [(takesOffer_iff _ _ _).1 room]
  · rw [offerAnswer_of_full full]
  · rw [offerAnswer_of_down down]

theorem allocAnswer_empty {s : State} (gen : Gen) (empty : s.tracker.free = []) :
    allocAnswer gen s = .empty := by
  unfold allocAnswer; rw [empty]

theorem allocAnswer_stale {gen : Gen} {s : State} (some : s.tracker.free ≠ [])
    (stale : gen ≠ s.steering.generation) : allocAnswer gen s = .stale := by
  unfold allocAnswer
  cases free : s.tracker.free with
  | nil => exact absurd free some
  | cons tag rest => exact if_neg stale

theorem allocAnswer_tag {gen : Gen} {s : State} {tag : Tag} {rest : List Tag}
    (free : s.tracker.free = tag :: rest) (current : gen = s.steering.generation) :
    allocAnswer gen s = .tag tag := by
  unfold allocAnswer; rw [free]; exact if_pos current

/-- The tag at the head of the pool goes to the entry. -/
theorem allocateEntry_eq {s : State} {tag : Tag} {rest : List Tag} (free : s.tracker.free = tag :: rest)
    (e : TrackEntry) : allocateEntry e s = { s with tracker :=
      { s.tracker with entries := s.tracker.entries ++ [e], free := rest } } := by
  have tail : rest = s.tracker.free.tail := by rw [free]; rfl
  rw [tail]; rfl

/-- The answers to a placement: with the entry as it was made, as the egress N transmit queue answers. -/
theorem placeAnswerOf_same {e : TrackEntry} {s : State} (same : entryUnder e.tag s = some e) :
    (TakesOffer e.egress .n s → placeAnswerOf e s = .placed) ∧
    (RefusesAsFull e.egress .n s → placeAnswerOf e s = .handBack) := by
  rw [entryUnder_eq] at same
  unfold placeAnswerOf
  refine ⟨fun room => ?_, fun full => ?_⟩
  · rw [(takesOffer_iff _ _ _).1 room]; exact if_pos same
  · rw [offerAnswer_of_full full]; exact if_pos same

theorem placeAnswerOf_down {e : TrackEntry} {s : State} (down : RefusesAsDown e.egress s) :
    placeAnswerOf e s = .down := by
  unfold placeAnswerOf; rw [offerAnswer_of_down down]

/-- A placement whose entry has changed is refused as closed where the port is not down. -/
theorem placeAnswerOf_changed {e : TrackEntry} {s : State} (notDown : ¬RefusesAsDown e.egress s)
    (changed : entryUnder e.tag s ≠ some e) : placeAnswerOf e s = .closed := by
  rw [entryUnder_eq] at changed
  rw [refusesAsDown_iff] at notDown
  unfold placeAnswerOf offerAnswer LinkPort.answer
  rw [if_neg notDown]
  split_ifs <;> rfl

/-- A hand-back: the entry goes, its tag returns to the head of the pool, the removal is reported as
WITHDRAWN, and the wait marks for a tag are cleared (R50, R66). -/
theorem handBack_reported (e : TrackEntry) (s : State) : ∃ t,
    handBack e s = resourceFreed .tag t ∧
    Reported e .withdrawn [] { s with tracker :=
      { entryRemoved e.tag s.tracker with free := e.tag :: s.tracker.free } } t :=
  ⟨_, rfl, reportRemovals_reported e .withdrawn []
    (setTracker (s.tracker.handBack e) s)⟩

/-! ### P offers (R34) -/

/-- What a dispatcher makes of each answer to its P offer. -/
theorem dispatcherPOffer_answered {p egress : Port} {s : State} {req : Packet} {dec : Decision}
    {route : Route} {dest : UnitNo} {address : Addr} {timeout : Time}
    (waits : WaitsWith p .p (.pOffer dec) req s)
    (ruling : dec.ruling = .steer route egress dest address timeout) :
    let after := dispatcherPOffer p s
    (pOfferAnswer egress dec s = .accepted → after = complete p .p (some dec) []
      (enqueue egress .p (steeredPacket req (s.unit egress) dest 0 address) s)) ∧
    (pOfferAnswer egress dec s = .full → after = dropHead p .p [.transmit egress .p] s) ∧
    (pOfferAnswer egress dec s = .stale → after = dropHead p .p [] s) ∧
    (pOfferAnswer egress dec s = .down → after = egressDown p .p req dec s) := by
  unfold dispatcherPOffer
  rw [waits_work waits, waits_head waits]
  dsimp only
  rw [ruling]
  refine ⟨fun answer => ?_, fun answer => ?_, fun answer => ?_, fun answer => ?_⟩
  all_goals dsimp only; rw [answer]

/-- The egress-down outcome of a posted write: it is discarded with a REFUSED notice (R40). -/
theorem egressDown_write {req : Packet} (p : Port) (ch : Chan) (dec : Decision) (s : State)
    (write : req.kind = .write) : egressDown p ch req dec s = reportedBy p dec (noticed
      (requestNoticed .refused p req dec.label dec.generation 3) (headLeft p ch s)) := by
  unfold egressDown
  rw [if_pos write, refuse_write _ _ _ _ _ _ _ write]
  rfl

/-- Settles O21, by the answer to the offer. -/
theorem postedWriteIsOffered : Obligations.PostedWriteIsOffered := by
  intro p egress s req dec route dest address timeout waits ruling
  obtain ⟨accepted, full, stale, down⟩ := dispatcherPOffer_answered waits ruling
  refine ⟨fun old => congrArg _ (stale (pOfferAnswer_stale old)), fun current => ?_⟩
  obtain ⟨takes, refusesFull, refusesDown⟩ := pOfferAnswer_current (egress := egress) current
  exact ⟨fun room => congrArg _ (accepted (takes room)),
    fun isDown write => congrArg _ ((down (refusesDown isDown)).trans
      (egressDown_write p .p dec s write)),
    fun isFull => congrArg _ (full (refusesFull isFull))⟩

/-! ### Allocations (R50) -/

/-- What a dispatcher makes of each answer to the allocation for a steered request. -/
theorem dispatcherAllocation_steered {p egress : Port} {s : State} {req : Packet} {dec : Decision}
    {route : Route} {dest : UnitNo} {address : Addr} {timeout : Time}
    (waits : WaitsWith p .n (.allocate dec) req s)
    (ruling : dec.ruling = .steer route egress dest address timeout) :
    let after := dispatcherAllocation p s
    (allocAnswer dec.generation s = .empty → after = dropHead p .n [.tag] s) ∧
    (allocAnswer dec.generation s = .stale → after = dropHead p .n [] s) ∧
    ∀ tag, allocAnswer dec.generation s = .tag tag →
      let e := steeredEntry s tag p req dec egress dest address timeout
      after = setWork p (.place (some dec) e) (allocateEntry e s) := by
  unfold dispatcherAllocation
  rw [waits_work waits, waits_head waits]
  dsimp only
  rw [ruling]
  refine ⟨fun answer => ?_, fun answer => ?_, fun tag answer => ?_⟩
  all_goals dsimp only; rw [answer]

/-- What a dispatcher makes of each answer to the allocation for a FENCE, which is never stale. -/
theorem dispatcherAllocation_fence {p egress : Port} {s : State} {req : Packet}
    (waits : WaitsWith p .n (.allocateFence egress) req s) :
    let after := dispatcherAllocation p s
    (allocAnswer s.generation s = .empty → after = dropHead p .n [.tag] s) ∧
    ∀ tag, allocAnswer s.generation s = .tag tag →
      let e := fenceEntry s tag p req egress
      after = setWork p (.place none e) (allocateEntry e s) := by
  unfold dispatcherAllocation
  rw [waits_work waits, waits_head waits]
  refine ⟨fun answer => ?_, fun tag answer => ?_⟩
  all_goals dsimp only; rw [answer]

/-- Settles O22, by the answer to the allocation. -/
theorem tagIsAllocated : Obligations.TagIsAllocated := by
  refine ⟨fun p egress s req dec route dest address timeout waits ruling => ?_,
    fun p egress s req waits => ?_⟩
  · obtain ⟨empty, stale, taken⟩ := dispatcherAllocation_steered waits ruling
    refine ⟨fun none => congrArg _ (empty (allocAnswer_empty _ none)),
      fun some old => congrArg _ (stale (allocAnswer_stale some old)),
      fun tag rest free current => congrArg _ ((taken tag (allocAnswer_tag free current)).trans ?_)⟩
    rw [allocateEntry_eq free]; rfl
  · obtain ⟨empty, taken⟩ := dispatcherAllocation_fence waits
    refine ⟨fun none => congrArg _ (empty (allocAnswer_empty _ none)),
      fun tag rest free => congrArg _ ((taken tag (allocAnswer_tag free rfl)).trans ?_)⟩
    rw [allocateEntry_eq free]; rfl

/-! ### N placements (R35) -/

/-- What a dispatcher makes of each answer to its N placement. -/
theorem dispatcherPlacement_answered {p : Port} {s : State} {req : Packet} {dec : Option Decision}
    {e : TrackEntry} (waits : WaitsWith p .n (.place dec e) req s) :
    let after := dispatcherPlacement p s
    (placeAnswerOf e s = .placed → after = complete p .n dec []
      (enqueue e.egress .n (taggedPacket req e (s.unit e.egress)) s)) ∧
    (placeAnswerOf e s = .handBack →
      after = dropHead p .n [.transmit e.egress .n] (handBack e s)) ∧
    (placeAnswerOf e s = .down ∨ placeAnswerOf e s = .closed → after = complete p .n dec [] s) := by
  unfold dispatcherPlacement
  rw [waits_work waits, waits_head waits]
  refine ⟨fun answer => ?_, fun answer => ?_, fun answer => ?_⟩
  · dsimp only; rw [answer]
  · dsimp only; rw [answer]
  · rcases answer with answer | answer
    all_goals dsimp only; rw [answer]

/-- Settles O23, by the answer to the placement. -/
theorem taggedRequestIsPlaced : Obligations.TaggedRequestIsPlaced := by
  intro p s req dec e waits counted source
  obtain ⟨placed, handedBack, refused⟩ := dispatcherPlacement_answered waits
  have completes : ∀ t, complete p .n dec [] t = counted (headLeft p .n t) := by
    intro t; cases dec <;> rfl
  refine ⟨fun same => ?_, fun lost => congrArg _ ((refused ?_).trans (completes s))⟩
  · obtain ⟨takes, full⟩ := placeAnswerOf_same same
    refine ⟨fun room => congrArg _ ((placed (takes room)).trans (completes _)), fun isFull => ?_⟩
    obtain ⟨t, back, withdrawn⟩ := handBack_reported e s
    exact ⟨t, congrArg _ ((handedBack (full isFull)).trans (by rw [back]; rfl)), withdrawn⟩
  · by_cases down : RefusesAsDown e.egress s
    · exact .inl (placeAnswerOf_down down)
    · exact .inr (placeAnswerOf_changed down (lost.resolve_left down))

/-! ### HOLD offers (R38, R73) -/

/-- The HOLD offer of a dispatcher. -/
theorem dispatcherHoldOffer_eq {p : Port} {ch : Chan} {s : State} {req : Packet} {dec : Decision}
    {limit : Time} (waits : WaitsWith p ch (.holdOffer ch dec) req s)
    (ruling : dec.ruling = .hold limit) :
    dispatcherHoldOffer p s =
      if s.hold.slots.length < 8 then
        reportedBy p dec (noticed (holdNoticed .held (newHoldSlot s p req dec limit))
          (headLeft p ch (setHold (s.hold.enter (newHoldSlot s p req dec limit)) s)))
      else
        let full := requestNoticed .holdFull p req dec.label dec.generation 0
        if req.kind = .write then reportedBy p dec (noticed full (headLeft p ch s))
        else if offerAnswer p .c s = .accepted then
          reportedBy p dec (noticed full (headLeft p ch (repliedTo p req .refused s)))
        else headDropped p ch [.holdSlot, .transmit p .c] s := by
  unfold dispatcherHoldOffer
  rw [waits_work waits]
  dsimp only
  rw [ruling, waits_head waits]
  rfl

/-- Settles O24, by whether a slot is free and, when none is, whether the refusal has C space. -/
theorem holdOfferIsTaken : Obligations.HoldOfferIsTaken := by
  intro p s ch req dec limit waits ruling full
  have step : exec (.holdOffer p) s = .next (dispatcherHoldOffer p s) := rfl
  rw [step, dispatcherHoldOffer_eq waits ruling]
  refine ⟨fun room => ?_, fun none => ?_⟩
  · obtain ⟨k, small, id, fresh, before⟩ := nextId_spec s.hold room
    rw [if_pos room]
    exact ⟨k, small, newHoldSlot s p req dec limit,
      congrArg (HoldSlot.mk · (.held (s.timebase + limit)) p req dec.label dec.generation s.timebase
        limit) id,
      fun h mem => (fresh h mem).trans_eq id.symm, before, rfl⟩
  · rw [if_neg (Nat.not_lt.2 none), takesOffer_iff]
    exact ⟨fun write => congrArg _ (if_pos write),
      fun other room => congrArg _ ((if_neg other).trans (if_pos room)),
      fun other noRoom => congrArg _ ((if_neg other).trans (if_neg noRoom))⟩

end Sys2Proof
end

section
/-! PROOFS. Replies: what the tracker makes of one that is presented, and the placement of the replies that
closed entries and answering slots owe. -/

namespace Sys2Proof

open Machine

/-! ### A presented reply (R51, R53, R56 to R58) -/

theorem isOpen_iff (st : TrackState) : st.isOpen = true ↔ st = .awaiting ∨ st = .orphaned := by
  cases st <;> simp [TrackState.isOpen]

/-- A reply matches the entry of its tag when that left by the port and is open. -/
theorem matchReply_of_open {p : Port} {reply : Packet} {s : State} {e : TrackEntry}
    (under : entryUnder reply.tag s = some e) (egress : e.egress = p)
    (isOpen : e.state = .awaiting ∨ e.state = .orphaned) :
    matchReply p reply s.tracker = some e := by
  rw [entryUnder_eq] at under
  unfold matchReply
  rw [under]
  exact if_pos ⟨egress, (isOpen_iff _).2 isOpen⟩

/-- A reply matches no entry when that of its tag left by another port or is CLOSING. -/
theorem matchReply_none {p : Port} {reply : Packet} {s : State}
    (late : ∀ e, entryUnder reply.tag s = some e →
      e.egress ≠ p ∨ ¬(e.state = .awaiting ∨ e.state = .orphaned)) :
    matchReply p reply s.tracker = none := by
  unfold matchReply
  cases under : s.tracker.find reply.tag with
  | none => rfl
  | some e =>
    refine if_neg fun ⟨egress, isOpen⟩ => ?_
    exact (late e under).elim (· egress) (· ((isOpen_iff _).1 isOpen))

/-- The LATE_REPLY notice of a reply whose tag has no entry. -/
theorem lateReplyNotice_none {reply : Packet} {s : State} (p : Port)
    (none : entryUnder reply.tag s = none) :
    lateReplyNotice p reply s = lateReplyFor p reply 0 s.steering.generation := by
  rw [entryUnder_eq] at none
  unfold lateReplyNotice
  rw [none]
  rfl

/-- The LATE_REPLY notice carries the label and generation of the entry under its tag when that is CLOSING,
and otherwise label 0 and the current generation (R58). -/
theorem lateReplyNotice_under {reply : Packet} {s : State} {e : TrackEntry} (p : Port)
    (under : entryUnder reply.tag s = some e) :
    lateReplyNotice p reply s = lateReplyFor p reply
      (if e.state = .awaiting ∨ e.state = .orphaned then 0 else e.label)
      (if e.state = .awaiting ∨ e.state = .orphaned then s.steering.generation
        else e.generation) := by
  rw [entryUnder_eq] at under
  unfold lateReplyNotice
  rw [under]
  simp only [← isOpen_iff]
  cases e.state.isOpen <;> rfl

theorem replyPresentation_waits {p : Port} {s : State} {reply : Packet}
    (waits : WaitsWith p .c .present reply s) :
    exec (.replyPresentation p) s = .next (presentReply p reply s) := by
  simp only [exec, execReplyPresentation]
  rw [waits_work waits, waits_head waits]

/-- What the tracker makes of a reply that matches an entry. -/
theorem presentReply_match {p : Port} {reply : Packet} {s : State} {e : TrackEntry}
    (found : matchReply p reply s.tracker = some e) : presentReply p reply s =
      if e.kind = .drainFence then consumeFenceReply p reply e s
      else if e.state = .awaiting then dispatchGoesOn p (.take e) s
      else discardOrphan p reply e s := by
  unfold presentReply
  rw [found]
  rfl

/-- A reply that matches no entry is late. -/
theorem presentReply_late {p : Port} {reply : Packet} {s : State}
    (none : matchReply p reply s.tracker = none) :
    presentReply p reply s = headLeft p .c (noticed (lateReplyNotice p reply s) s) := by
  unfold presentReply
  rw [none]
  rfl

/-- A reply that ends an entry without being passed on: the removal is reported, with a PARTNER_ERROR unless
the reply is as it should be. -/
theorem entryEnded_reported (e : TrackEntry) (cause : Cause) (reply : Packet) (sound : Prop)
    [Decidable sound] (s : State) : ∃ t notices,
      (sound → notices = []) ∧ (¬sound → notices = [partnerErrorFor e reply]) ∧
      reportRemovals [⟨e, cause⟩] (if sound then [] else [partnerErrorNotice e reply])
        (releaseEntry e s) = t ∧
      Reported e cause notices (tagFreed e.tag s) t :=
  ⟨_, _, fun h => if_pos h, fun h => if_neg h, rfl, by
    rw [← releaseEntry_eq]; exact reportRemovals_reported _ _ _ _⟩

/-- Settles O26, by the entry under the tag of the reply. -/
theorem replyIsPresented : Obligations.ReplyIsPresented := by
  intro p s reply waits
  rw [replyPresentation_waits waits]
  refine ⟨fun elsewhere => congrArg _ ?_, fun e under egress => ⟨fun status k closing => congrArg _ ?_,
    fun notFence awaiting => congrArg _ ?_, fun notFence orphaned => ?_, fun fence awaiting => ?_⟩⟩
  · rw [presentReply_late (matchReply_none fun e under => .inl (elsewhere e under))]
    cases under : entryUnder reply.tag s with
    | none => rw [lateReplyNotice_none p under]
    | some e => rw [lateReplyNotice_under p under]
  · have closed : ¬(e.state = .awaiting ∨ e.state = .orphaned) := by rw [closing]; nofun
    have notMatched : matchReply p reply s.tracker = none := by
      refine matchReply_none fun e' under' => .inr ?_
      cases under.symm.trans under'
      exact closed
    rw [presentReply_late notMatched, lateReplyNotice_under p under, if_neg closed, if_neg closed]
  · rw [presentReply_match (matchReply_of_open under egress (.inl awaiting)), if_neg notFence,
      if_pos awaiting]
  · obtain ⟨t, notices, fits, misfits, ended, reported⟩ :=
      entryEnded_reported e .linkDown reply (replyFits e reply = true) s
    rw [replyFits_iff] at fits misfits
    rw [presentReply_match (matchReply_of_open under egress (.inr orphaned)), if_neg notFence,
      if_neg (by rw [orphaned]; nofun)]
    exact ⟨t, notices, fits, misfits, congrArg _ (congrArg (finishHead p .c) ended), reported⟩
  · obtain ⟨t, notices, sound, unsound, ended, reported⟩ :=
      entryEnded_reported e .replied reply (reply.status = ReplyStatus.ok.code ∧ reply.length = 0) s
    rw [presentReply_match (matchReply_of_open under egress (.inl awaiting)), if_pos fence]
    exact ⟨t, notices, sound, unsound, congrArg _ (congrArg (finishHead p .c) ended), reported⟩

/-! ### Closing replies (R61) -/

theorem shortReply_eq : shortReply = madeUpReply := by
  funext source dest tag status
  unfold shortReply madeUpReply
  rw [statusByte_eq]

/-- The number of the event at which an entry entered CLOSING; 0 for an open one. -/
def closedAt (e : TrackEntry) : Nat :=
  match e.state with
  | .closing _ k => k
  | .awaiting | .orphaned => 0

theorem mem_closingOf {t : Tracker} {p : Port} {e : TrackEntry} :
    e ∈ t.closingOf p ↔ ∃ status k o, e ∈ t.entries ∧ e.state = .closing status k ∧
      e.origin = some o ∧ o.port = p := by
  unfold Tracker.closingOf
  rw [List.mem_filter]
  obtain ⟨_, state, _, origin, _⟩ := e
  cases state <;> cases origin <;> simp [TrackState.isOpen]

/-- The entry chosen for a closing reply is one that entered CLOSING first. -/
theorem oldestClosing_spec (t : Tracker) (p : Port) :
    (oldest olderClosing (t.closingOf p) = none ↔ t.closingOf p = []) ∧
      ∀ e, oldest olderClosing (t.closingOf p) = some e →
        e ∈ t.closingOf p ∧ ∀ e' ∈ t.closingOf p, closedAt e ≤ closedAt e' := by
  refine oldest_spec _ closedAt _ (fun a memA b memB younger => ?_) (fun a memA b memB elder => ?_)
  all_goals
    obtain ⟨_, i, _, _, stateA, _⟩ := mem_closingOf.1 memA
    obtain ⟨_, j, _, _, stateB, _⟩ := mem_closingOf.1 memB
    unfold olderClosing at *
    unfold closedAt
    simp only [stateA, stateB, Bool.or_eq_true, Bool.or_eq_false_iff, Bool.and_eq_true,
      decide_eq_true_eq, decide_eq_false_iff_not] at *
    omega

theorem closedAt_closing {e : TrackEntry} {status : CloseStatus} {k : Nat}
    (closing : e.state = .closing status k) : closedAt e = k := by
  unfold closedAt; rw [closing]

/-- The reply of the entry chosen is placed where the queue takes it. -/
theorem placeClosing_oldest {p : Port} {s : State} {e : TrackEntry} {status : CloseStatus} {k : Nat}
    {o : Origin} (chosen : oldest olderClosing (s.tracker.closingOf p) = some e)
    (closing : e.state = .closing status k) (origin : e.origin = some o) :
    (TakesOffer p .c s → placeClosing p s = coolEntry e (causeOf status) [] (queued p .c
      (shortReply (s.mgmt.params.unit.get p) o.unit o.tag (closingStatusReply status)) s)) ∧
    (¬TakesOffer p .c s → placeClosing p s = s) := by
  rw [takesOffer_iff, causeOf_eq, closingStatusReply_eq, shortReply_eq]
  unfold placeClosing
  rw [chosen]
  dsimp only
  rw [closing, origin]
  exact ⟨fun room => if_pos room, fun full => if_neg full⟩

theorem placeClosing_none {p : Port} {s : State} (none : s.tracker.closingOf p = []) :
    placeClosing p s = s := by
  unfold placeClosing; rw [none]; rfl

/-! ### Hold answers (R75) -/

/-- The number of the event at which a slot became ANSWERING; 0 for a HELD one. -/
def answeringSince (h : HoldSlot) : Nat :=
  match h.state with
  | .answering _ k => k
  | .held _ => 0

theorem mem_answersOf {q : HoldQueue} {p : Port} {h : HoldSlot} :
    h ∈ q.answersOf p ↔ ∃ status k, h ∈ q.slots ∧ h.state = .answering status k ∧ h.origin = p := by
  unfold HoldQueue.answersOf
  rw [List.mem_filter]
  obtain ⟨_, state, _⟩ := h
  cases state <;> simp [HoldState.isHeld]

/-- The slot chosen for a hold answer is one that became ANSWERING first. -/
theorem oldestAnswer_spec (q : HoldQueue) (p : Port) :
    (oldest olderAnswer (q.answersOf p) = none ↔ q.answersOf p = []) ∧
      ∀ h, oldest olderAnswer (q.answersOf p) = some h →
        h ∈ q.answersOf p ∧ ∀ h' ∈ q.answersOf p, answeringSince h ≤ answeringSince h' := by
  refine oldest_spec _ answeringSince _ (fun a memA b memB younger => ?_)
    (fun a memA b memB elder => ?_)
  all_goals
    obtain ⟨_, i, _, stateA, _⟩ := mem_answersOf.1 memA
    obtain ⟨_, j, _, stateB, _⟩ := mem_answersOf.1 memB
    unfold olderAnswer at *
    unfold answeringSince
    simp only [stateA, stateB, Bool.or_eq_true, Bool.or_eq_false_iff, Bool.and_eq_true,
      decide_eq_true_eq, decide_eq_false_iff_not] at *
    omega

theorem answeringSince_answering {h : HoldSlot} {status : AnswerStatus} {k : Nat}
    (answering : h.state = .answering status k) : answeringSince h = k := by
  unfold answeringSince; rw [answering]

/-- The answer of the slot chosen is placed where the queue takes it, and the slot freed. -/
theorem placeAnswer_oldest {p : Port} {s : State} {h : HoldSlot} {status : AnswerStatus} {k : Nat}
    (chosen : oldest olderAnswer (s.hold.answersOf p) = some h)
    (answering : h.state = .answering status k) :
    (TakesOffer p .c s →
      placeAnswer p s = slotFreed h.id (repliedTo p h.request (holdReply status) s)) ∧
    (¬TakesOffer p .c s → placeAnswer p s = s) := by
  rw [takesOffer_iff, holdReply_eq]
  unfold placeAnswer repliedTo
  rw [chosen, shortReply_eq]
  dsimp only
  rw [answering]
  exact ⟨fun room => if_pos room, fun full => if_neg full⟩

theorem placeAnswer_none {p : Port} {s : State} (none : s.hold.answersOf p = []) :
    placeAnswer p s = s := by
  unfold placeAnswer; rw [none]; rfl

/-- Settles O29: the member chosen is an oldest one, and there is one unless the list is empty. -/
theorem owedReplyIsPlaced : Obligations.OwedReplyIsPlaced := by
  refine ⟨fun p s => ?_, fun p s => ?_⟩
  · intro closes
    have step : exec (.closingReplyPlacement p) s = .next (placeClosing p s) := rfl
    rw [step]
    obtain ⟨empty, first⟩ := oldestClosing_spec s.tracker p
    cases chosen : oldest olderClosing (s.tracker.closingOf p) with
    | none =>
      have none := empty.1 chosen
      refine ⟨fun _ ⟨e, owed⟩ => ?_, fun _ => congrArg _ (placeClosing_none none)⟩
      have mem : e ∈ s.tracker.closingOf p := mem_closingOf.2 owed
      rw [none] at mem
      cases mem
    | some e =>
      obtain ⟨mem, before⟩ := first e chosen
      obtain ⟨status, k, o, member⟩ := mem_closingOf.1 mem
      have ⟨_, closing, origin, _⟩ := member
      obtain ⟨placed, kept⟩ := placeClosing_oldest chosen closing origin
      refine ⟨fun room _ => ⟨e, status, k, o, _, member, fun e' status' k' o' other => ?_,
          congrArg _ (placed room), coolEntry_reported _ _ _ _⟩,
        fun refused => congrArg _ (kept (refused.resolve_right
          fun none => none ⟨e, status, k, o, member⟩))⟩
      rw [← closedAt_closing closing, ← closedAt_closing other.2.1]
      exact before e' (mem_closingOf.2 ⟨status', k', o', other⟩)
  · intro answers
    have step : exec (.holdAnswerPlacement p) s = .next (placeAnswer p s) := rfl
    rw [step]
    obtain ⟨empty, first⟩ := oldestAnswer_spec s.hold p
    cases chosen : oldest olderAnswer (s.hold.answersOf p) with
    | none =>
      have none := empty.1 chosen
      refine ⟨fun _ ⟨h, owed⟩ => ?_, fun _ => congrArg _ (placeAnswer_none none)⟩
      have mem : h ∈ s.hold.answersOf p := mem_answersOf.2 owed
      rw [none] at mem
      cases mem
    | some h =>
      obtain ⟨mem, before⟩ := first h chosen
      obtain ⟨status, k, member⟩ := mem_answersOf.1 mem
      have ⟨_, answering, _⟩ := member
      obtain ⟨placed, kept⟩ := placeAnswer_oldest chosen answering
      refine ⟨fun room _ => ⟨h, status, k, member, fun h' status' k' other => ?_,
          congrArg _ (placed room)⟩,
        fun refused => congrArg _ (kept (refused.resolve_right
          fun none => none ⟨h, status, k, member⟩))⟩
      rw [← answeringSince_answering answering, ← answeringSince_answering other.2.1]
      exact before h' (mem_answersOf.2 ⟨status', k', other⟩)

end Sys2Proof
end

section
/-! PROOFS. A port-down, as a whole and for each tracker entry (R49, R62, R63). -/

namespace Sys2Proof

open Machine

/-! ### Which entries a port-down removes, and what it makes of the others -/

theorem removedByPortDown_awaiting {e : TrackEntry} (p : Port) (s : State)
    (awaiting : e.state = .awaiting) : removedByPortDown p s e = true ↔
      e.egress = p ∧ ∀ o, e.origin = some o → o.port = p ∨ portIsDown o.port s = true := by
  unfold removedByPortDown
  rw [awaiting]
  cases e.origin <;> simp

theorem removedByPortDown_orphaned {e : TrackEntry} (p : Port) (s : State)
    (orphaned : e.state = .orphaned) : removedByPortDown p s e = true ↔ e.egress = p := by
  unfold removedByPortDown
  rw [orphaned]
  exact decide_eq_true_iff

theorem removedByPortDown_closing {e : TrackEntry} {status : CloseStatus} {k : Nat} (p : Port)
    (s : State) (closing : e.state = .closing status k) :
    removedByPortDown p s e = true ↔ ∃ o, e.origin = some o ∧ o.port = p := by
  unfold removedByPortDown
  rw [closing]
  cases e.origin <;> simp

/-- Only an entry that left by the port or came from it is removed. -/
theorem removedByPortDown_touches {p : Port} {s : State} {e : TrackEntry}
    (removed : removedByPortDown p s e = true) :
    e.egress = p ∨ ∃ o, e.origin = some o ∧ o.port = p := by
  cases state : e.state with
  | awaiting => exact .inl ((removedByPortDown_awaiting p s state).1 removed).1
  | orphaned => exact .inl ((removedByPortDown_orphaned p s state).1 removed)
  | closing status k => exact .inr ((removedByPortDown_closing p s state).1 removed)

theorem stateAfterPortDown_left {p : Port} {e : TrackEntry} (s : State)
    (awaiting : e.state = .awaiting) (egress : e.egress = p) :
    stateAfterPortDown p s e = .closing .linkDown s.events :=
  if_pos ⟨awaiting, egress⟩

theorem stateAfterPortDown_from {p : Port} {e : TrackEntry} {o : Origin} (s : State)
    (awaiting : e.state = .awaiting) (egress : e.egress ≠ p) (origin : e.origin = some o)
    (port : o.port = p) : stateAfterPortDown p s e = .orphaned := by
  unfold stateAfterPortDown
  rw [if_neg fun left => egress left.2]
  exact if_pos ⟨awaiting, by simp [origin, port]⟩

theorem stateAfterPortDown_same {p : Port} {e : TrackEntry} (s : State)
    (untouched : e.state ≠ .awaiting ∨
      e.egress ≠ p ∧ ∀ o, e.origin = some o → o.port ≠ p) :
    stateAfterPortDown p s e = e.state := by
  unfold stateAfterPortDown
  rcases untouched with notAwaiting | ⟨egress, origin⟩
  · rw [if_neg fun left => notAwaiting left.1, if_neg fun came => notAwaiting came.1]
  · rw [if_neg fun left => egress left.2, if_neg]
    rintro ⟨_, came⟩
    obtain ⟨o, some, port⟩ := (Option.any_eq_true _ _).1 came
    exact origin o some (of_decide_eq_true port)

/-- What a port-down leaves of an entry it would not remove again. -/
theorem removedByPortDown_after {p : Port} {s : State} {e : TrackEntry}
    (stays : ¬removedByPortDown p s e = true) :
    ¬removedByPortDown p s { e with state := stateAfterPortDown p s e } = true := by
  by_cases touched : e.state = .awaiting ∧ (e.egress = p ∨ ∃ o, e.origin = some o ∧ o.port = p)
  · obtain ⟨awaiting, egress | ⟨o, origin, port⟩⟩ := touched
    · rw [stateAfterPortDown_left s awaiting egress, removedByPortDown_closing p s rfl]
      rintro ⟨o, origin, port⟩
      refine stays ((removedByPortDown_awaiting p s awaiting).2 ⟨egress, fun o' origin' => .inl ?_⟩)
      cases origin.symm.trans origin'
      exact port
    · by_cases egress : e.egress = p
      · exact absurd ((removedByPortDown_awaiting p s awaiting).2 ⟨egress, fun o' origin' => .inl (by
          cases origin.symm.trans origin'; exact port)⟩) stays
      · rw [stateAfterPortDown_from s awaiting egress origin port, removedByPortDown_orphaned p s rfl]
        exact egress
  · have untouched : e.state ≠ .awaiting ∨
        e.egress ≠ p ∧ ∀ o, e.origin = some o → o.port ≠ p := by
      by_cases awaiting : e.state = .awaiting
      · exact .inr ⟨fun egress => touched ⟨awaiting, .inl egress⟩,
          fun o origin port => touched ⟨awaiting, .inr ⟨o, origin, port⟩⟩⟩
      · exact .inl awaiting
    rw [stateAfterPortDown_same s untouched]
    exact stays

/-! ### The tracker after a port-down -/

/-- The tracker after the port-down of a port when no release is in progress. -/
def trackerGoneDown (p : Port) (s : State) : Tracker :=
  { s.tracker with
    entries := (s.tracker.entries.filter fun e => !removedByPortDown p s e).map fun e =>
      { e with state := stateAfterPortDown p s e }
    cooling := s.tracker.cooling ++ (s.tracker.entries.filter (removedByPortDown p s)).map
      fun e => ⟨e.tag, s.timebase + e.timeout⟩ }

theorem wentDown_tracker {p : Port} {s t : State} (down : WentDown p s t)
    (noRelease : s.hold.release = none) : t.tracker = trackerGoneDown p s := by
  have stopped : releaseStopped p s = none := by unfold releaseStopped; rw [noRelease]; rfl
  have back : afterHandBack p s = (s.tracker, s.commit) := by
    unfold afterHandBack; rw [entryWithdrawn_eq_none stopped]
  obtain ⟨_, _, _, after⟩ := down
  rw [after, back]
  rfl

/-- A removed entry is gone, and its tag cools for its reply timeout. -/
theorem trackerGoneDown_removed {p : Port} {s : State} {e : TrackEntry}
    (mem : e ∈ s.tracker.entries) (removed : removedByPortDown p s e = true) :
    e ∉ (trackerGoneDown p s).entries ∧
      ⟨e.tag, s.timebase + e.timeout⟩ ∈ (trackerGoneDown p s).cooling := by
  refine ⟨fun stands => ?_, List.mem_append_right _ (List.mem_map_of_mem (f := fun e : TrackEntry =>
    CoolingTag.mk e.tag (s.timebase + e.timeout)) (List.mem_filter.2 ⟨mem, removed⟩))⟩
  obtain ⟨e', stays, rfl⟩ := List.mem_map.1 stands
  have kept := (List.mem_filter.1 stays).2
  exact removedByPortDown_after (by simpa using kept) removed

/-- An entry that is not removed stands in its new state. -/
theorem trackerGoneDown_stays {p : Port} {s : State} {e : TrackEntry} {state : TrackState}
    (mem : e ∈ s.tracker.entries) (stays : ¬removedByPortDown p s e = true)
    (after : stateAfterPortDown p s e = state) :
    { e with state := state } ∈ (trackerGoneDown p s).entries := by
  subst after
  have kept : (!removedByPortDown p s e) = true := by simpa using stays
  exact List.mem_map_of_mem (f := fun e : TrackEntry =>
    { e with state := stateAfterPortDown p s e })
    (List.mem_filter (p := fun e => !removedByPortDown p s e) |>.2 ⟨mem, kept⟩)

/-- The third failure of a retraining is a port-down. -/
theorem attemptDeadlineExpiry_wentDown {p : Port} {s : State} {a : Attempt}
    (attempt : (s.port p).attempt = some a) (due : Reached s.timebase a.deadline)
    (third : (s.port p).attempts = 2) (retraining : (s.port p).state = .retraining) :
    ∃ t, exec (.attemptDeadlineExpiry p) s = .next t ∧ WentDown p s t := by
  have expired : dueAttempt reached p s = some a := by
    unfold dueAttempt
    rw [attempt]
    exact if_pos ((reached_iff _ _).2 due)
  refine ⟨failAttempt p a s, ?_, ((failAttempt_failed p a s).2 third).2 retraining⟩
  simp only [exec, execAttemptDeadlineExpiry]
  rw [expired]

/-- Settles O10: the port-down as a whole, and each entry by its state and its ports. -/
theorem portGoesDown : Obligations.PortGoesDown := by
  refine ⟨fun p s a attempt due third retraining =>
      attemptDeadlineExpiry_wentDown attempt due third retraining,
    fun p s t a attempt due third retraining noRelease step => ?_⟩
  obtain ⟨t', step', down⟩ := attemptDeadlineExpiry_wentDown attempt due third retraining
  cases step.symm.trans step'
  rw [wentDown_tracker down noRelease]
  refine ⟨rfl, fun e mem => ?_⟩
  intro gone
  have goes : removedByPortDown p s e = true → gone := trackerGoneDown_removed mem
  refine ⟨fun awaiting egress => ⟨fun _ none => ?_, fun o origin => ⟨fun away => ?_,
      fun elsewhere up => ?_⟩⟩, fun awaiting egress o origin port => ?_,
    fun orphaned egress => ?_, fun status k o closing origin => ⟨fun port => ?_, fun port => ?_⟩,
    fun egress elsewhere => ?_⟩
  · exact goes ((removedByPortDown_awaiting p s awaiting).2 ⟨egress, by rw [none]; nofun⟩)
  · refine goes ((removedByPortDown_awaiting p s awaiting).2 ⟨egress, fun o' origin' => ?_⟩)
    cases origin.symm.trans origin'
    exact away
  · refine trackerGoneDown_stays mem (fun removed => ?_) (stateAfterPortDown_left s awaiting egress)
    rcases ((removedByPortDown_awaiting p s awaiting).1 removed).2 o origin with own | isDown
    · exact elsewhere own
    · rw [up] at isDown; cases isDown
  · exact trackerGoneDown_stays mem
      (fun removed => egress ((removedByPortDown_awaiting p s awaiting).1 removed).1)
      (stateAfterPortDown_from s awaiting egress origin port)
  · exact goes ((removedByPortDown_orphaned p s orphaned).2 egress)
  · exact goes ((removedByPortDown_closing p s closing).2 ⟨o, origin, port⟩)
  · refine trackerGoneDown_stays mem (fun removed => ?_)
      (stateAfterPortDown_same s (.inl (by rw [closing]; nofun)))
    obtain ⟨o', origin', port'⟩ := (removedByPortDown_closing p s closing).1 removed
    cases origin.symm.trans origin'
    exact port port'
  · refine trackerGoneDown_stays mem (fun removed => ?_)
      (stateAfterPortDown_same s (.inr ⟨egress, elsewhere⟩))
    rcases removedByPortDown_touches removed with left | ⟨o, origin, port⟩
    · exact egress left
    · exact elsewhere o origin port

end Sys2Proof
end

section
/-! PROOFS. The offers of a release: its P offer, its tag allocation and its N placement, by the release
step or by the offer's own command (R78, Table 4-2). -/

namespace Sys2Proof

open Machine

/-! ### The ends of a release -/

/-- A release whose slot is freed ends DONE: its decision is reported and its result delivered. -/
theorem endDone_slotFreed {h : HoldSlot} {mark : Option Nat} {phase : ReleasePhase} {delivers : Bool}
    {t : State} (inProgress : t.hold.release = some ⟨h, mark, phase, delivers⟩) (dec : Decision)
    (result : Result) (done : result.code = .done) :
    endDone (some dec) result (slotFreed h.id t) =
      releaseEnded delivers result (reportedByHold dec (slotFreed h.id t)) :=
  endRelease_eq (t := reportedByHold dec (slotFreed h.id t)) (r := ⟨h, mark, phase, delivers⟩)
    ((reportedByHold_release dec _).trans inProgress) result (by rw [done]; nofun)

/-- A release that ends with its request still HELD. -/
theorem endHeld_eq {r : Release} {t : State} (inProgress : t.hold.release = some r) (h : HoldSlot)
    (code : ResultCode) (notAccepted : code ≠ .accepted) :
    endHeld h code t = releaseLeftHeld r.delivers h code t := by
  have ended : endRelease (refusal code) t = releaseEnded r.delivers ⟨code, 0⟩ t :=
    endRelease_eq inProgress _ notAccepted
  have now : (releaseEnded r.delivers ⟨code, 0⟩ t).timebase = t.timebase := by rw [releaseEnded_eq]
  unfold endHeld releaseLeftHeld
  rw [ended]
  dsimp only
  cases h.state with
  | answering status k => rfl
  | held deadline =>
    dsimp only
    rw [now, reached_eq]
    simp only [decide_eq_true_eq]
    rfl

/-- A DONE result with outcome STEERED shows the bridge tag in byte 5 with bit 7 set (R186). -/
theorem releaseResult_steered (tag : Tag) :
    releaseResult .steered (some tag) = ⟨.done, 1 + 256 * (128 + tag.setWidth 32)⟩ := by
  refine congrArg (Result.mk .done) (BitVec.eq_of_toNat_eq ?_)
  have small := tag.isLt
  simp only [ReleaseOutcome.code, BitVec.ofNat_eq_ofNat, BitVec.toNat_ofNat, BitVec.toNat_add,
    BitVec.toNat_mul, BitVec.toNat_setWidth]
  omega

/-! ### The P offer (R34) -/

/-- The P offer's own command is the release step. -/
theorem pTransmitOffer_releaseSteps {s : State} {h : HoldSlot} {mark : Option Nat} {delivers : Bool}
    {dec : Decision} (r : Releasing (.pOffer dec) h mark delivers s) :
    exec (.pTransmitOffer .hold) s = exec .releaseSteps s := by
  rw [releaseSteps_eq r]
  simp only [exec, execPTransmitOffer, holdPOffer]
  rw [releasing_eq r]

/-- What a release makes of each answer to its P offer. -/
theorem releasePOffer_answered {dec : Decision} {route : Route} {egress : Port} {dest : UnitNo}
    {address : Addr} {timeout : Time} (r : Release) (h : HoldSlot) (s : State)
    (ruling : dec.ruling = .steer route egress dest address timeout) :
    let after := releasePOffer r h dec s
    (pOfferAnswer egress dec s = .accepted → after = endDone (some dec) (releaseResult .steered none)
      (slotFreed h.id
        (queued egress .p (steeredPacket h.request (s.unit egress) dest 0 address) s))) ∧
    (pOfferAnswer egress dec s = .full → after = endHeld h .busy s) ∧
    (pOfferAnswer egress dec s = .stale → after = setPhase r .lookup s) ∧
    (pOfferAnswer egress dec s = .down → after = endRefused h .linkDown (some dec)
      [requestNoticed .refused h.origin h.request dec.label dec.generation 3] .egressDown s) := by
  unfold releasePOffer
  rw [ruling]
  dsimp only
  refine ⟨fun answer => ?_, fun answer => ?_, fun answer => ?_, fun answer => ?_⟩
  · rw [answer]; rfl
  · rw [answer]
  · rw [answer]
  · rw [answer]; rfl

/-! ### The tag allocation (R50) -/

/-- The allocation's own command is the release step. -/
theorem tagAllocation_releaseSteps {s : State} {h : HoldSlot} {mark : Option Nat} {delivers : Bool}
    {dec : Decision} (r : Releasing (.allocate dec) h mark delivers s) :
    exec (.tagAllocation .hold) s = exec .releaseSteps s := by
  rw [releaseSteps_eq r]
  simp only [exec, execTagAllocation, holdAllocation]
  rw [releasing_eq r]

/-- What a release makes of each answer to its allocation. -/
theorem releaseAllocation_answered {dec : Decision} {route : Route} {egress : Port} {dest : UnitNo}
    {address : Addr} {timeout : Time} (r : Release) (h : HoldSlot) (s : State)
    (ruling : dec.ruling = .steer route egress dest address timeout) :
    let after := releaseAllocation r h dec s
    (allocAnswer dec.generation s = .empty → after = endHeld h .noTag s) ∧
    (allocAnswer dec.generation s = .stale → after = setPhase r .lookup s) ∧
    ∀ tag, allocAnswer dec.generation s = .tag tag →
      let e := steeredEntry s tag h.origin h.request dec egress dest address timeout
      after = setPhase r (.place dec e) (allocateEntry e s) := by
  unfold releaseAllocation
  rw [ruling]
  refine ⟨fun answer => ?_, fun answer => ?_, fun tag answer => ?_⟩
  all_goals dsimp only; rw [answer]

/-- Settles O35, by the answers to the offer and to the allocation. -/
theorem releasedRequestIsOffered : Obligations.ReleasedRequestIsOffered := by
  refine ⟨fun s h mark delivers dec route egress dest address timeout offers ruling => ?_,
    fun s h mark delivers dec route egress dest address timeout allocates ruling => ?_⟩
  · have inProgress := offers.1
    obtain ⟨accepted, full, stale, down⟩ :=
      releasePOffer_answered ⟨h, mark, .pOffer dec, delivers⟩ h s ruling
    rw [pTransmitOffer_releaseSteps offers, releaseSteps_eq offers]
    refine ⟨rfl, fun old => congrArg _ ?_, fun current => ?_⟩
    · exact (stale (pOfferAnswer_stale old)).trans (setPhase_eq inProgress _ rfl)
    obtain ⟨takes, refusesFull, refusesDown⟩ := pOfferAnswer_current (egress := egress) current
    refine ⟨fun room => congrArg _ ?_, fun isFull => congrArg _ ?_, fun isDown => congrArg _ ?_⟩
    · exact (accepted (takes room)).trans (endDone_slotFreed (t := queued _ _ _ s) inProgress dec _ rfl)
    · exact (full (refusesFull isFull)).trans (endHeld_eq inProgress h .busy nofun)
    · exact (down (refusesDown isDown)).trans
        (endRefused_decided inProgress .linkDown dec (some _) .egressDown)
  · have inProgress := allocates.1
    obtain ⟨empty, stale, taken⟩ :=
      releaseAllocation_answered ⟨h, mark, .allocate dec, delivers⟩ h s ruling
    rw [tagAllocation_releaseSteps allocates, releaseSteps_eq allocates]
    refine ⟨rfl, fun none => congrArg _ ?_, fun some old => congrArg _ ?_,
      fun tag tags free current => congrArg _ ?_⟩
    · exact (empty (allocAnswer_empty _ none)).trans (endHeld_eq inProgress h .noTag nofun)
    · exact (stale (allocAnswer_stale some old)).trans (setPhase_eq inProgress _ rfl)
    · refine (taken tag (allocAnswer_tag free current)).trans ?_
      rw [allocateEntry_eq free]
      exact setPhase_eq inProgress _ rfl

/-! ### The N placement (R35) -/

/-- The placement's own command is the release step. -/
theorem nTransmitPlacement_releaseSteps {s : State} {h : HoldSlot} {mark : Option Nat}
    {delivers : Bool} {dec : Decision} {e : TrackEntry}
    (r : Releasing (.place dec e) h mark delivers s) :
    exec (.nTransmitPlacement .hold) s = exec .releaseSteps s := by
  rw [releaseSteps_eq r]
  simp only [exec, execNTransmitPlacement, holdPlacement]
  rw [releasing_eq r]

/-- What a release makes of each answer to its N placement; a released request is not a FENCE (R38). -/
theorem releasePlacement_answered {e : TrackEntry} (notFence : e.kind ≠ .fence) (h : HoldSlot)
    (dec : Decision) (s : State) :
    let after := releasePlacement h dec e s
    (placeAnswerOf e s = .placed → after = endDone (some dec) (releaseResult .steered (some e.tag))
      (slotFreed h.id (queued e.egress .n
        (steeredPacket h.request (s.unit e.egress) e.dest e.tag e.address) s))) ∧
    (placeAnswerOf e s = .handBack → after = endHeld h .busy (handBack e s)) ∧
    (placeAnswerOf e s = .down →
      after = endDone (some dec) (releaseResult .egressDown none) (slotFreed h.id s)) ∧
    (placeAnswerOf e s = .closed →
      after = endDone (some dec) (releaseResult .steered (some e.tag)) (slotFreed h.id s)) := by
  have packet : taggedPacket h.request e (s.unit e.egress) =
      steeredPacket h.request (s.unit e.egress) e.dest e.tag e.address := if_neg notFence
  unfold releasePlacement
  rw [packet]
  refine ⟨fun answer => ?_, fun answer => ?_, fun answer => ?_, fun answer => ?_⟩
  · rw [answer]; rfl
  · rw [answer]
  · rw [answer]; rfl
  · rw [answer]; rfl

/-- Settles O36, by the answer to the placement. -/
theorem releasedRequestIsPlaced : Obligations.ReleasedRequestIsPlaced := by
  intro s h mark delivers dec e places notFence req steered
  have inProgress := places.1
  obtain ⟨placed, handedBack, refused, closed⟩ := releasePlacement_answered notFence h dec s
  rw [releaseResult_steered] at placed closed
  rw [nTransmitPlacement_releaseSteps places, releaseSteps_eq places]
  refine ⟨rfl, fun same => ?_, fun down => congrArg _ ?_, fun notDown changed => congrArg _ ?_⟩
  · obtain ⟨takes, full⟩ := placeAnswerOf_same same
    refine ⟨fun room => congrArg _ ((placed (takes room)).trans ?_), fun isFull => ?_⟩
    · exact endDone_slotFreed (t := queued _ _ _ s) inProgress dec _ rfl
    obtain ⟨t, back, withdrawn⟩ := handBack_reported e s
    have left := endHeld_eq ((congrArg HoldQueue.release (handBack_hold e s)).trans inProgress)
      h .busy nofun
    rw [back] at left handedBack
    exact ⟨t, congrArg _ ((handedBack (full isFull)).trans left), withdrawn⟩
  · exact (refused (placeAnswerOf_down down)).trans (endDone_slotFreed inProgress dec _ rfl)
  · exact (closed (placeAnswerOf_changed notDown changed)).trans (endDone_slotFreed inProgress dec _ rfl)

end Sys2Proof
end

section
/-! PROOFS. Where the bridge tags are (R44 to R47): each move of the tracker leaves every traffic tag in
exactly one of the free pool, the cooling set and the entries. -/

namespace Sys2Proof

open Machine

/-- Every tag that the tracker holds: those in the free pool, those that cool, and those in use. -/
def Machine.Tracker.tags (t : Tracker) : List Tag :=
  t.free ++ (t.cooling.map (·.tag) ++ t.entries.map (·.tag))

/-- The laws of the tags (R44): a tag is in one place only, the pool holds traffic tags alone, and every
traffic tag is somewhere. -/
structure Machine.Tracker.TagsLawful (t : Tracker) : Prop where
  nodup : t.tags.Nodup
  pool : ∀ tag ∈ t.free, tag.toNat ≤ 125
  complete : ∀ tag : Tag, tag.toNat ≤ 125 → tag ∈ t.tags

theorem mem_tags {t : Tracker} {tag : Tag} : tag ∈ t.tags ↔
    tag ∈ t.free ∨ (∃ m ∈ t.cooling, m.tag = tag) ∨ ∃ e ∈ t.entries, e.tag = tag := by
  simp [Tracker.tags]

theorem tracker_find_spec {t : Tracker} {tag : Tag} {e : TrackEntry} (found : t.find tag = some e) :
    e ∈ t.entries ∧ e.tag = tag :=
  ⟨List.mem_of_find?_eq_some found, by simpa using List.find?_some found⟩

/-- Taking out the members of one key takes out one member where the keys are distinct. -/
theorem map_perm_cons_filter {α : Type} (key : α → Tag) {l : List α} (distinct : (l.map key).Nodup)
    {a : α} (mem : a ∈ l) :
    (l.map key).Perm (key a :: (l.filter fun b => key b ≠ key a).map key) := by
  have erased : (l.filter fun b => key b ≠ key a).map key = (l.map key).erase (key a) := by
    rw [distinct.erase_eq_filter, List.filter_map]
    congr 2
    funext b
    by_cases same : key b = key a <;> simp [same]
  rw [erased]
  exact List.perm_cons_erase (List.mem_map_of_mem mem)

namespace Machine.Tracker.TagsLawful

variable {t t' : Tracker}

theorem entries_nodup (lawful : t.TagsLawful) : (t.entries.map (·.tag)).Nodup :=
  lawful.nodup.of_append_right.of_append_right

theorem cooling_nodup (lawful : t.TagsLawful) : (t.cooling.map (·.tag)).Nodup :=
  lawful.nodup.of_append_right.of_append_left

/-- The laws hold however the tags are moved about, as long as the pool takes traffic tags alone. -/
theorem of_perm (lawful : t.TagsLawful) (perm : t'.tags.Perm t.tags)
    (pool : ∀ tag ∈ t'.free, tag.toNat ≤ 125) : t'.TagsLawful where
  nodup := perm.nodup_iff.2 lawful.nodup
  pool := pool
  complete := fun tag traffic => perm.mem_iff.2 (lawful.complete tag traffic)

/-- So they do when a fence tag goes idle. -/
theorem of_perm_cons (lawful : t.TagsLawful) {fence : Tag} (perm : t.tags.Perm (fence :: t'.tags))
    (notTraffic : ¬fence.toNat ≤ 125) (pool : ∀ tag ∈ t'.free, tag.toNat ≤ 125) : t'.TagsLawful where
  nodup := (perm.nodup_iff.1 lawful.nodup).of_cons
  pool := pool
  complete := fun tag traffic => by
    rcases List.mem_cons.1 (perm.mem_iff.1 (lawful.complete tag traffic)) with rfl | mem
    · exact absurd traffic notTraffic
    · exact mem

/-- An entry of the tracker is the only one under its tag. -/
theorem entry_unique (lawful : t.TagsLawful) {e f : TrackEntry} (he : e ∈ t.entries)
    (hf : f ∈ t.entries) (same : f.tag = e.tag) : f = e :=
  List.inj_on_of_nodup_map lawful.entries_nodup hf he same

theorem erase_perm (lawful : t.TagsLawful) {e : TrackEntry} (mem : e ∈ t.entries) :
    t.tags.Perm (e.tag :: (t.erase e.tag).tags) := by
  have taken := map_perm_cons_filter (·.tag) lawful.entries_nodup mem
  calc t.tags
      = (t.free ++ t.cooling.map (·.tag)) ++ t.entries.map (·.tag) := (List.append_assoc ..).symm
    List.Perm _ ((t.free ++ t.cooling.map (·.tag)) ++ (e.tag :: (t.erase e.tag).entries.map (·.tag))) :=
        taken.append_left _
    List.Perm _ (e.tag :: ((t.free ++ t.cooling.map (·.tag)) ++ (t.erase e.tag).entries.map (·.tag))) :=
        List.perm_middle
    _ = e.tag :: (t.erase e.tag).tags := by rw [List.append_assoc]; rfl

/-- A hand-back returns the tag of an entry to the pool (R50). -/
theorem handBack (lawful : t.TagsLawful) {e : TrackEntry} (mem : e ∈ t.entries)
    (traffic : e.tag.toNat ≤ 125) : (t.handBack e).TagsLawful :=
  lawful.of_perm (lawful.erase_perm mem).symm fun tag here => by
    rcases List.mem_cons.1 here with rfl | here
    · exact traffic
    · exact lawful.pool tag here

/-- The tag of an entry that no reply ended cools (R46). -/
theorem cool (lawful : t.TagsLawful) {e : TrackEntry} (mem : e ∈ t.entries) (now : Time) :
    (t.cool now e).TagsLawful := by
  refine lawful.of_perm (List.Perm.trans ?_ (lawful.erase_perm mem).symm) lawful.pool
  simp only [Tracker.tags, Tracker.cool, List.map_append, List.map_cons, List.map_nil, List.append_assoc, List.singleton_append]
  exact (List.perm_middle.append_left t.free).trans List.perm_middle

/-- A tag that leaves use or the cooling set joins the tail of the pool, or goes idle when it is a fence
tag (R45, R46, R57). -/
theorem free (lawful : t.TagsLawful) {tag : Tag} (perm : t.tags.Perm (tag :: t'.tags))
    (pool : t'.free = t.free) :
    ({ t' with free := if isTrafficTag tag then t'.free ++ [tag] else t'.free } : Tracker).TagsLawful := by
  rw [isTrafficTag_eq]
  by_cases traffic : tag.toNat ≤ 125
  · simp only [traffic, decide_true, if_true]
    refine lawful.of_perm (List.Perm.trans ?_ perm.symm) fun k here => ?_
    · change (t'.free ++ [tag] ++ _).Perm (tag :: (t'.free ++ _))
      rw [List.append_assoc]
      exact List.perm_middle
    · rcases List.mem_append.1 here with here | here
      · exact lawful.pool k (pool ▸ here)
      · rw [List.mem_singleton.1 here]; exact traffic
  · simp only [traffic, decide_false, Bool.false_eq_true, if_false]
    exact lawful.of_perm_cons perm traffic (pool ▸ lawful.pool)

/-- A matched reply frees the tag of its entry (R45, R57). -/
theorem release (lawful : t.TagsLawful) {e : TrackEntry} (mem : e ∈ t.entries) :
    (t.release e).TagsLawful :=
  lawful.free (t' := t.erase e.tag) (lawful.erase_perm mem) rfl

/-- The end of a cooling period frees the tag (R46). -/
theorem endCooling (lawful : t.TagsLawful) {m : CoolingTag} (mem : m ∈ t.cooling) :
    ({ t with
      cooling := t.cooling.filter fun k => k.tag ≠ m.tag
      free := if isTrafficTag m.tag then t.free ++ [m.tag] else t.free } : Tracker).TagsLawful :=
  lawful.free (t' := { t with cooling := t.cooling.filter fun k => k.tag ≠ m.tag })
    (((map_perm_cons_filter (·.tag) lawful.cooling_nodup mem).append_right _ |>.append_left _).trans
      List.perm_middle) rfl

/-- The tag at the head of the pool goes to a new entry (R45, R50). -/
theorem allocate (lawful : t.TagsLawful) {e : TrackEntry} {rest : List Tag}
    (head : t.free = e.tag :: rest) : (t.allocate e).TagsLawful := by
  refine lawful.of_perm ?_ fun tag here => lawful.pool tag (List.mem_of_mem_tail here)
  have tail : (t.allocate e).tags =
      rest ++ (t.cooling.map (·.tag) ++ (t.entries.map (·.tag) ++ [e.tag])) := by
    simp [Tracker.tags, Tracker.allocate, head]
  rw [tail]
  simp only [Tracker.tags, head, ← List.append_assoc]
  exact List.perm_append_singleton _ _

/-- An entry that changes its state keeps its tag. -/
theorem setState (lawful : t.TagsLawful) (tag : Tag) (st : TrackState) :
    (t.setState tag st).TagsLawful := by
  have same : (t.setState tag st).entries.map (·.tag) = t.entries.map (·.tag) := by
    simp only [Tracker.setState, List.map_map]
    refine List.map_congr_left fun e _ => ?_
    dsimp only [Function.comp_apply]
    split <;> rfl
  refine lawful.of_perm (List.Perm.of_eq ?_) lawful.pool
  unfold Tracker.tags
  rw [same]
  rfl

/-- An event that acts on every entry keeps their tags in use or lets them cool (R46). -/
theorem settle (lawful : t.TagsLawful) (now : Time) {fate : TrackEntry → Fate}
    (keeps : ∀ e e', fate e = .stay e' → e'.tag = e.tag) : (t.settle now fate).TagsLawful := by
  have parted : ∀ l : List TrackEntry, ((removals fate l).map (·.entry.tag) ++
      (l.filterMap fun e => match fate e with
        | .stay e' => some e'
        | .cool _ => none).map (·.tag)).Perm (l.map (·.tag)) := by
    intro l
    induction l with
    | nil => exact .nil
    | cons e l ih =>
      cases came : fate e with
      | stay e' =>
        simp only [removals, List.filterMap_cons, came, List.map_cons, keeps e e' came] at ih ⊢
        exact List.perm_middle.trans (ih.cons _)
      | cool cause =>
        simp only [removals, List.filterMap_cons, came, List.map_cons, List.cons_append] at ih ⊢
        exact ih.cons _
  refine lawful.of_perm ?_ lawful.pool
  simp only [Tracker.tags, Tracker.settle, List.map_append, List.map_map, List.append_assoc]
  exact ((parted t.entries).append_left _).append_left _

end Machine.Tracker.TagsLawful

end Sys2Proof
end

section
/-! PROOFS. The ledger: the part of the state that the laws of the tracker and the drain speak of, and the
moves of it that keep those laws. -/

namespace Sys2Proof

open Machine

/-! ### The part of the state that the laws speak of -/

/-- The tag of the placement that a dispatch is about to make. -/
def placementTag : Option Work → Option Tag
  | some (.place _ e) => some e.tag
  | _ => none

/-- The tag of the placement that a release is about to make. -/
def releaseTag : Option Release → Option Tag
  | some ⟨_, _, .place _ e, _⟩ => some e.tag
  | _ => none

/-- The tracker, the state and count of the drain, the current generation, and the tags of the placements
that the dispatchers and the release are about to make. -/
structure Ledger where
  tracker : Tracker
  state : CommitState
  drainGeneration : Gen
  remaining : Nat
  generation : Gen
  placing : Duo (Option Tag)
  releasing : Option Tag

/-- The ledger of a state. -/
def ledger (s : State) : Ledger where
  tracker := s.tracker
  state := s.commit.state
  drainGeneration := s.commit.drainGeneration
  remaining := s.commit.remaining
  generation := s.steering.generation
  placing := s.dispatchers.map fun d => placementTag d.work
  releasing := releaseTag s.hold.release

/-- What the laws ask of one entry: a drain fence is AWAITING under its fence tag, of the drain; any other
has a traffic tag and an origin (R47); and it is of the current generation or the drain's (R91). -/
structure Ledger.Admits (l : Ledger) (e : TrackEntry) : Prop where
  fence : e.kind = .drainFence → e.tag = fenceTagOf e.egress ∧ e.state = .awaiting ∧ e.origin = none ∧
    l.state = .draining ∧ e.generation = l.drainGeneration
  other : e.kind ≠ .drainFence → e.tag.toNat ≤ 125 ∧ e.origin ≠ none
  generation : e.generation = l.generation ∨ l.state = .draining ∧ e.generation = l.drainGeneration

/-- The laws of the tracker and the drain, of the ledger alone. -/
structure Ledger.Lawful (l : Ledger) : Prop where
  tags : l.tracker.TagsLawful
  entries : ∀ e ∈ l.tracker.entries, l.Admits e
  placing : ∀ p, ∀ tag ∈ l.placing.get p, tag.toNat ≤ 125
  releasing : ∀ tag ∈ l.releasing, tag.toNat ≤ 125
  drainGeneration : l.state = .draining → l.drainGeneration + 1 = l.generation
  remaining : l.state = .draining → l.remaining = l.tracker.ofGeneration l.drainGeneration
  goesOn : l.state = .draining ↔ l.remaining ≠ 0

theorem ledger_placing (s : State) (p : Port) :
    (ledger s).placing.get p = placementTag (s.dispatcher p).work := by
  cases p <;> rfl

theorem placementTag_eq_some {w : Option Work} {tag : Tag} :
    placementTag w = some tag ↔ ∃ dec e, w = some (.place dec e) ∧ e.tag = tag := by
  unfold placementTag
  split <;> simp_all

theorem releaseTag_eq_some {r : Option Release} {tag : Tag} :
    releaseTag r = some tag ↔ ∃ k dec e, r = some k ∧ k.phase = .place dec e ∧ e.tag = tag := by
  cases r with
  | none => simp [releaseTag]
  | some k =>
    obtain ⟨_, _, phase, _⟩ := k
    cases phase <;> simp [releaseTag]

theorem tagsLawful_of_laws {s : State} (laws : TrackerLaws s) : s.tracker.TagsLawful where
  nodup := by
    unfold Tracker.tags
    simp only [List.nodup_append, List.mem_append, List.mem_map]
    refine ⟨laws.free_nodup, ⟨laws.cooling_nodup, laws.entries_nodup, ?_⟩, ?_⟩
    · rintro _ ⟨m, cools, rfl⟩ _ ⟨e, used, rfl⟩
      exact (laws.cooling_not_used m cools e used).symm
    · rintro tag free _ (⟨m, cools, rfl⟩ | ⟨e, used, rfl⟩)
      · exact (laws.free_not_cooling tag free m cools).symm
      · exact (laws.free_not_used tag free e used).symm
  pool := laws.free_traffic
  complete := fun tag traffic => mem_tags.2 (laws.somewhere tag traffic)

theorem trackerLaws_iff (s : State) : TrackerLaws s ↔ (ledger s).Lawful := by
  constructor
  · intro laws
    exact {
      tags := tagsLawful_of_laws laws
      entries := fun e mem => ⟨laws.fences e mem, laws.others e mem, laws.generations e mem⟩
      placing := fun p tag here => by
        rw [ledger_placing] at here
        obtain ⟨dec, e, work, rfl⟩ := placementTag_eq_some.1 here
        exact laws.placing p dec e work
      releasing := fun tag here => by
        obtain ⟨r, dec, e, inProgress, phase, rfl⟩ := releaseTag_eq_some.1 here
        exact laws.releasing r dec e inProgress phase
      drainGeneration := laws.drain_generation
      remaining := laws.remaining
      goesOn := laws.goes_on }
  · rintro ⟨⟨nodup, pool, complete⟩, entries, placing, releasing, drainGeneration, remaining, goesOn⟩
    unfold Tracker.tags at nodup
    simp only [List.nodup_append, List.mem_append, List.mem_map] at nodup
    obtain ⟨free, ⟨cooling, used, coolingUsed⟩, freeOther⟩ := nodup
    exact {
      free_nodup := free
      cooling_nodup := cooling
      entries_nodup := used
      free_traffic := pool
      free_not_cooling := fun tag here m cools => (freeOther tag here _ (.inl ⟨m, cools, rfl⟩)).symm
      free_not_used := fun tag here e mem => (freeOther tag here _ (.inr ⟨e, mem, rfl⟩)).symm
      cooling_not_used := fun m cools e mem => (coolingUsed _ ⟨m, cools, rfl⟩ _ ⟨e, mem, rfl⟩).symm
      somewhere := fun tag traffic => mem_tags.1 (complete tag traffic)
      fences := fun e mem => (entries e mem).fence
      others := fun e mem => (entries e mem).other
      placing := fun p dec e work =>
        placing p e.tag (by rw [ledger_placing]; exact placementTag_eq_some.2 ⟨dec, e, work, rfl⟩)
      releasing := fun r dec e inProgress phase =>
        releasing e.tag (releaseTag_eq_some.2 ⟨r, dec, e, inProgress, phase, rfl⟩)
      generations := fun e mem => (entries e mem).generation
      drain_generation := drainGeneration
      remaining := remaining
      goes_on := goesOn }

/-! ### Placements begun and ended -/

/-- A dispatcher goes on to a placement, or has none before it. -/
def Ledger.withPlacing (p : Port) (tag : Option Tag) (l : Ledger) : Ledger :=
  { l with placing := l.placing.set p tag }

/-- The release goes on to a placement, or has none before it. -/
def Ledger.withReleasing (tag : Option Tag) (l : Ledger) : Ledger :=
  { l with releasing := tag }

namespace Ledger.Lawful

variable {l : Ledger}

theorem withPlacing (lawful : l.Lawful) (p : Port) {tag : Option Tag}
    (traffic : ∀ t ∈ tag, t.toNat ≤ 125) : (l.withPlacing p tag).Lawful :=
  { lawful with
    entries := fun e mem => { lawful.entries e mem with }
    placing := fun q t here => by
      simp only [Ledger.withPlacing, Duo.get_set] at here
      split at here
      · exact traffic t here
      · exact lawful.placing q t here }

@[simp] theorem leaves (lawful : l.Lawful) (p : Port) : (l.withPlacing p none).Lawful :=
  lawful.withPlacing p nofun

theorem withReleasing (lawful : l.Lawful) {tag : Option Tag} (traffic : ∀ t ∈ tag, t.toNat ≤ 125) :
    (l.withReleasing tag).Lawful :=
  { lawful with
    entries := fun e mem => { lawful.entries e mem with }
    releasing := traffic }

@[simp] theorem ends (lawful : l.Lawful) : (l.withReleasing none).Lawful :=
  lawful.withReleasing nofun

end Ledger.Lawful

/-! ### The recount (R66, R99) -/

/-- The tracker changes, and during a drain the controller counts the entries of the drain generation that
are left, whose number ends the drain at 0. -/
def Ledger.recount (t : Tracker) (l : Ledger) : Ledger :=
  { l with
    tracker := t
    state := if t.ofGeneration l.drainGeneration = 0 then .idle else l.state
    remaining := if l.state = .draining then t.ofGeneration l.drainGeneration else l.remaining }

/-- Outside a drain nothing is counted. -/
theorem Ledger.recount_of_idle {l : Ledger} (notDraining : l.state ≠ .draining) (t : Tracker) :
    l.recount t = { l with tracker := t } := by
  obtain ⟨_, state, _, _, _, _, _⟩ := l
  cases state with
  | idle => simp [Ledger.recount]
  | draining => exact absurd rfl notDraining

namespace Ledger.Lawful

variable {l : Ledger}

theorem drainGeneration_ne (lawful : l.Lawful) (draining : l.state = .draining) :
    l.drainGeneration ≠ l.generation := by
  have next := lawful.drainGeneration draining
  bv_omega

/-- The laws are kept when the tracker changes in such a way that its tags are in place and every entry is
still admitted: the count is taken anew, and a drain over which no entry is left ends. -/
theorem recount (lawful : l.Lawful) {t : Tracker} (tags : t.TagsLawful)
    (entries : ∀ e ∈ t.entries, l.Admits e) : (l.recount t).Lawful := by
  by_cases nothing : t.ofGeneration l.drainGeneration = 0
  · have noneLeft : ∀ e ∈ t.entries, e.generation ≠ l.drainGeneration := by
      have empty := List.length_eq_zero_iff.1 nothing
      simpa using empty
    have idle : (l.recount t).state = .idle := if_pos nothing
    exact {
      tags := tags
      entries := fun e mem =>
        { fence := fun fence =>
            absurd ((entries e mem).fence fence).2.2.2.2 (noneLeft e mem)
          other := (entries e mem).other
          generation := .inl ((entries e mem).generation.resolve_right fun h => noneLeft e mem h.2) }
      placing := lawful.placing
      releasing := lawful.releasing
      drainGeneration := by rw [idle]; nofun
      remaining := by rw [idle]; nofun
      goesOn := by
        rw [idle]
        refine ⟨nofun, fun left => absurd ?_ left⟩
        change (if l.state = .draining then _ else l.remaining) = 0
        split
        · exact nothing
        · next h => exact not_not.1 fun ne => h (lawful.goesOn.2 ne) }
  · have same : (l.recount t).state = l.state := if_neg nothing
    exact {
      tags := tags
      entries := fun e mem =>
        { fence := by rw [same]; exact (entries e mem).fence
          other := (entries e mem).other
          generation := by rw [same]; exact (entries e mem).generation }
      placing := lawful.placing
      releasing := lawful.releasing
      drainGeneration := by rw [same]; exact lawful.drainGeneration
      remaining := by rw [same]; exact fun draining => if_pos draining
      goesOn := by
        rw [same]
        change l.state = .draining ↔ (if l.state = .draining then _ else l.remaining) ≠ 0
        split
        · next h => exact ⟨fun _ => nothing, fun _ => h⟩
        · exact lawful.goesOn }

/-- Where a drain has as many entries left as before, the count taken anew changes nothing. -/
theorem recount_same (lawful : l.Lawful) {t : Tracker} (same : l.state = .draining →
      t.ofGeneration l.drainGeneration = l.tracker.ofGeneration l.drainGeneration) :
    l.recount t = { l with tracker := t } := by
  by_cases draining : l.state = .draining
  · have count := lawful.remaining draining
    have left := lawful.goesOn.1 draining
    unfold Ledger.recount
    rw [same draining, ← count, if_neg left, if_pos draining]
  · exact Ledger.recount_of_idle draining t

/-- A tracker that leaves as many entries of the drain as before needs no recount. -/
theorem withTracker (lawful : l.Lawful) {t : Tracker} (tags : t.TagsLawful)
    (entries : ∀ e ∈ t.entries, l.Admits e) (same : l.state = .draining →
      t.ofGeneration l.drainGeneration = l.tracker.ofGeneration l.drainGeneration) :
    Ledger.Lawful { l with tracker := t } :=
  lawful.recount_same same ▸ lawful.recount tags entries

/-! ### Entries that leave or change -/

/-- Entries that are kept as they are stay admitted. -/
theorem admits_erase (lawful : l.Lawful) (tag : Tag) :
    ∀ e ∈ (l.tracker.erase tag).entries, l.Admits e :=
  fun e mem => lawful.entries e (List.mem_of_mem_filter mem)

/-- The end of an entry of the current generation leaves the count of the drain as it was. -/
theorem ofGeneration_erase (lawful : l.Lawful) {e : TrackEntry} (mem : e ∈ l.tracker.entries)
    (other : e.generation ≠ l.drainGeneration) :
    (l.tracker.erase e.tag).ofGeneration l.drainGeneration =
      l.tracker.ofGeneration l.drainGeneration := by
  unfold Tracker.ofGeneration Tracker.erase
  rw [List.filter_filter]
  congr 1
  refine List.filter_congr fun f here => ?_
  by_cases gen : f.generation = l.drainGeneration
  · have apart : f.tag ≠ e.tag := fun same =>
      other (lawful.tags.entry_unique mem here same ▸ gen)
    simp [gen, apart]
  · simp [gen]

end Ledger.Lawful

end Sys2Proof
end

section
/-! PROOFS. What the operations that blocks share make of the ledger: most leave it alone, some end a
placement, and the removals of entries are a recount. -/

namespace Sys2Proof

open Machine

/-! ### Operations that leave the ledger alone, or end a placement -/

theorem ledger_congr {s t : State} (tracker : t.tracker = s.tracker) (commit : t.commit = s.commit)
    (steering : t.steering = s.steering) (dispatchers : t.dispatchers = s.dispatchers)
    (hold : t.hold = s.hold) : ledger t = ledger s := by
  unfold ledger; rw [tracker, commit, steering, dispatchers, hold]

section Frames

variable (s : State)

@[simp] theorem ledger_setPort (p : Port) (lp : LinkPort) : ledger (s.setPort p lp) = ledger s := rfl
@[simp] theorem ledger_setMgmt (m : Management) : ledger (setMgmt m s) = ledger s := rfl
@[simp] theorem ledger_raise (r : NoticeReq) : ledger (raise r s) = ledger s := rfl
@[simp] theorem ledger_clearMarks (r : Resource) : ledger (clearMarks r s) = ledger s := rfl
@[simp] theorem ledger_clearAllMarks : ledger (clearAllMarks s) = ledger s := rfl
@[simp] theorem ledger_enqueue (p : Port) (ch : Chan) (pkt : Packet) :
    ledger (enqueue p ch pkt s) = ledger s := rfl
@[simp] theorem ledger_popNotice : ledger (popNotice s) = ledger s := rfl
@[simp] theorem ledger_freeHead : ledger (freeHead s) = ledger s := rfl
@[simp] theorem ledger_freeSlot (id : HoldId) : ledger (freeSlot id s) = ledger s := rfl

@[simp] theorem ledger_setTracker (t : Tracker) :
    ledger (setTracker t s) = { ledger s with tracker := t } := rfl

@[simp] theorem ledger_setHold (h : HoldQueue) :
    ledger (setHold h s) = (ledger s).withReleasing (releaseTag h.release) := rfl

@[simp] theorem ledger_setDispatcher (p : Port) (d : Dispatcher) :
    ledger (s.setDispatcher p d) = (ledger s).withPlacing p (placementTag d.work) := by
  cases p <;> rfl

@[simp] theorem ledger_setWork (p : Port) (w : Work) :
    ledger (setWork p w s) = (ledger s).withPlacing p (placementTag (some w)) :=
  ledger_setDispatcher ..

@[simp] theorem ledger_finishHead (p : Port) (ch : Chan) :
    ledger (finishHead p ch s) = (ledger s).withPlacing p none :=
  ledger_setDispatcher ..

@[simp] theorem ledger_dropHead (p : Port) (ch : Chan) (lacking : List Resource) :
    ledger (dropHead p ch lacking s) = (ledger s).withPlacing p none :=
  ledger_setDispatcher ..

@[simp] theorem ledger_setPhase (r : Release) (phase : ReleasePhase) :
    ledger (setPhase r phase s) =
      (ledger s).withReleasing (releaseTag (some { r with phase := phase })) := rfl

@[simp] theorem ledger_raiseList (rs : List NoticeReq) : ledger (raiseList rs s) = ledger s :=
  ledger_congr (by simp) (by simp) (by simp) (by simp) (by simp)

@[simp] theorem ledger_raiseTogether (bs : List (List NoticeReq)) :
    ledger (raiseTogether bs s) = ledger s :=
  ledger_congr (by simp) (by simp) (by simp) (by simp) (by simp)

@[simp] theorem ledger_setHeadState (st : SlotState) : ledger (setHeadState st s) = ledger s := by
  rw [setHeadState_form]; rfl

@[simp] theorem ledger_answerHead (r : Result) (index : Nat) :
    ledger (answerHead r index s) = ledger s := ledger_setHeadState _ _

@[simp] theorem ledger_endRelease (r : Result) :
    ledger (endRelease r s) = (ledger s).withReleasing none := by
  obtain ⟨q, form, -⟩ := endRelease_form r s
  rw [form]; rfl

@[simp] theorem ledger_refuseHeld (h : HoldSlot) (status : AnswerStatus) :
    ledger (refuseHeld h status s) = ledger s := by
  unfold refuseHeld
  split <;> rfl

@[simp] theorem ledger_expireHeld (h : HoldSlot) : ledger (expireHeld h s) = ledger s :=
  ledger_refuseHeld ..

@[simp] theorem ledger_reportCompletion (party : Party) (dec : Decision) :
    ledger (reportCompletion party dec s) = ledger s := by
  unfold reportCompletion
  split
  · rfl
  · cases party <;> rfl

@[simp] theorem ledger_managementPortDown (p : Port) : ledger (managementPortDown p s) = ledger s := by
  unfold managementPortDown
  split
  · simp only [ledger, setHold, setMgmt]
    congr 1
    cases s.hold.release with
    | none => rfl
    | some r =>
      obtain ⟨_, _, phase, _⟩ := r
      cases phase <;> rfl
  · rfl

@[simp] theorem ledger_dispatcherPortDown (p : Port) :
    ledger (dispatcherPortDown p s) = (ledger s).withPlacing p none :=
  ledger_setDispatcher ..

@[simp] theorem ledger_holdPortDown (p : Port) : ledger (holdPortDown p s).1 = ledger s := by
  unfold holdPortDown
  dsimp only
  split <;> rfl

@[simp] theorem ledger_complete (p : Port) (ch : Chan) (dec : Option Decision)
    (ns : List NoticeReq) : ledger (complete p ch dec ns s) = (ledger s).withPlacing p none := by
  cases dec <;> simp [complete]

@[simp] theorem ledger_endDone (dec : Option Decision) (r : Result) :
    ledger (endDone dec r s) = (ledger s).withReleasing none := by
  cases dec <;> simp [endDone]

@[simp] theorem ledger_endRefused (h : HoldSlot) (status : AnswerStatus) (dec : Option Decision)
    (ns : List NoticeReq) (outcome : ReleaseOutcome) :
    ledger (endRefused h status dec ns outcome s) = (ledger s).withReleasing none := by
  simp [endRefused]

@[simp] theorem ledger_endHeld (h : HoldSlot) (code : ResultCode) :
    ledger (endHeld h code s) = (ledger s).withReleasing none := by
  unfold endHeld
  dsimp only
  repeat' split
  all_goals simp

@[simp] theorem ledger_enterTraining (p : Port) : ledger (enterTraining p s) = ledger s := rfl
@[simp] theorem ledger_enterRetraining (p : Port) : ledger (enterRetraining p s) = ledger s := rfl
@[simp] theorem ledger_enterUp (p : Port) (a : Attempt) : ledger (enterUp p a s) = ledger s := rfl

@[simp] theorem ledger_placeReply (slot : CommandSlot) (status : ReplyStatus) (payload : List Byte) :
    ledger (placeReply slot status payload s) = ledger s := rfl

theorem ledger_releaseEntry (e : TrackEntry) :
    ledger (releaseEntry e s) = { ledger s with tracker := s.tracker.release e } := by
  unfold releaseEntry
  dsimp only
  split <;> rfl

end Frames

/-! ### Removals of entries -/

theorem foldl_takeReport (rs : List Removal) (c : Commit) :
    (rs.foldl Commit.takeReport c).state = c.state ∧
      (rs.foldl Commit.takeReport c).drainGeneration = c.drainGeneration := by
  induction rs generalizing c with
  | nil => exact ⟨rfl, rfl⟩
  | cons r rs ih => exact ih (c.takeReport r)

/-- The controller's count of the entries that a draining tracker has left is the recount. -/
theorem ledger_drainEnded {u : State} {l : Ledger} {t : Tracker} {c : Commit}
    (draining : l.state = .draining) (state : c.state = l.state)
    (gen : c.drainGeneration = l.drainGeneration) (tracked : ledger u = { l with tracker := t }) :
    ledger { u with commit := drainEnded u.timebase u.tracker.entries c } = l.recount t := by
  have tracker : u.tracker = t := congrArg Ledger.tracker tracked
  have others : ∀ d : Commit, ledger { u with commit := d } = { l with
      tracker := t, state := d.state, drainGeneration := d.drainGeneration
      remaining := d.remaining } := by
    intro d
    calc ledger { u with commit := d }
        = { ledger u with
            state := d.state, drainGeneration := d.drainGeneration, remaining := d.remaining } := rfl
      _ = _ := by rw [tracked]
  rw [others, tracker]
  unfold Ledger.recount drainEnded Tracker.ofGeneration
  rw [gen, if_pos draining]
  by_cases left : (t.entries.filter fun e => e.generation = l.drainGeneration).length = 0
  · simp [left]
  · simp [left, state]

/-- The reports of the removals of one event are a recount, when the removals that are not reported leave the
count of the drain generation as it was. -/
theorem ledger_takeReports {s u : State} {t : Tracker} {rs : List Removal}
    (lawful : (ledger s).Lawful) (tracked : ledger u = { ledger s with tracker := t })
    (told : s.commit.state = .draining → reported u rs = [] →
      t.ofGeneration s.commit.drainGeneration = s.tracker.ofGeneration s.commit.drainGeneration) :
    ledger (takeReports rs u).1 = (ledger s).recount t := by
  have state : u.commit.state = s.commit.state := congrArg Ledger.state tracked
  have gen : u.commit.drainGeneration = s.commit.drainGeneration :=
    congrArg Ledger.drainGeneration tracked
  rw [takeReports_eq]
  split
  · next h =>
    obtain ⟨stateKept, genKept⟩ := foldl_takeReport (reported u rs) u.commit
    exact ledger_drainEnded (state.symm.trans h.1) (stateKept.trans state) (genKept.trans gen) tracked
  · next h =>
    rw [lawful.recount_same fun draining =>
      told draining (not_not.1 fun some => h ⟨state.trans draining, some⟩)]
    exact tracked

/-- The removal of one entry, with its report, keeps the laws. -/
theorem removal_keeps {s u : State} {t : Tracker} {e : TrackEntry} (cause : Cause)
    (lawful : (ledger s).Lawful) (mem : e ∈ s.tracker.entries)
    (tracked : ledger u = { ledger s with tracker := t })
    (erased : t.entries = (s.tracker.erase e.tag).entries) (tags : t.TagsLawful) :
    (ledger (takeReports [⟨e, cause⟩] u).1).Lawful := by
  have generation : u.generation = s.generation := congrArg Ledger.generation tracked
  rw [ledger_takeReports lawful tracked fun draining silent => ?_]
  · exact lawful.recount tags fun f here => lawful.admits_erase e.tag f (erased ▸ here)
  · have current : e.generation = s.generation := by
      simpa [reported, generation] using silent
    have left := lawful.ofGeneration_erase mem fun same =>
      lawful.drainGeneration_ne draining (same.symm.trans current)
    unfold Tracker.ofGeneration at left ⊢
    rw [erased]
    exact left

theorem ledger_reportRemovals (rs : List Removal) (ns : List NoticeReq) (u : State) :
    ledger (reportRemovals rs ns u) = ledger (takeReports rs u).1 :=
  ledger_raiseTogether ..

section Removals

variable {s : State} {e : TrackEntry}

/-- The end of an entry by a reply, which frees its tag, keeps the laws (R45, R56, R57). -/
theorem reply_keeps (lawful : (ledger s).Lawful) (mem : e ∈ s.tracker.entries) (cause : Cause)
    (ns : List NoticeReq) : (ledger (reportRemovals [⟨e, cause⟩] ns (releaseEntry e s))).Lawful := by
  rw [ledger_reportRemovals]
  exact removal_keeps cause lawful mem (ledger_releaseEntry s e) rfl (lawful.tags.release mem)

theorem coolEntry_keeps (lawful : (ledger s).Lawful) (mem : e ∈ s.tracker.entries) (cause : Cause)
    (ns : List NoticeReq) : (ledger (coolEntry e cause ns s)).Lawful := by
  unfold coolEntry
  rw [ledger_reportRemovals]
  exact removal_keeps cause lawful mem (ledger_setTracker _ _) rfl (lawful.tags.cool mem _)

theorem withdraw_keeps (lawful : (ledger s).Lawful) (mem : e ∈ s.tracker.entries)
    (traffic : e.tag.toNat ≤ 125) : (ledger (withdraw e s).1).Lawful :=
  removal_keeps .withdrawn lawful mem (ledger_setTracker _ _) rfl (lawful.tags.handBack mem traffic)

theorem handBack_keeps (lawful : (ledger s).Lawful) (mem : e ∈ s.tracker.entries)
    (traffic : e.tag.toNat ≤ 125) : (ledger (handBack e s)).Lawful := by
  unfold handBack
  simp only [ledger_clearMarks, ledger_raiseTogether]
  exact withdraw_keeps lawful mem traffic

/-- A placement hands its tag back only where its entry still stands (R35). -/
theorem placeAnswer_found (h : placeAnswerOf e s = .handBack) : e ∈ s.tracker.entries := by
  unfold placeAnswerOf at h
  split at h
  · cases h
  · split at h <;> cases h
  · split at h
    · next found => exact (tracker_find_spec found).1
    · cases h

end Removals

/-! ### Events that act on every entry -/

/-- A fate that keeps what the laws ask of an entry: one that stays keeps its tag and generation, and is
still admitted. -/
structure Ledger.Settles (l : Ledger) (fate : TrackEntry → Fate) : Prop where
  tag : ∀ e e', fate e = .stay e' → e'.tag = e.tag
  generation : ∀ e e', fate e = .stay e' → e'.generation = e.generation
  admits : ∀ e e', fate e = .stay e' → l.Admits e → l.Admits e'

/-- An entry that changes its state alone is still admitted unless it is a drain fence. -/
theorem Ledger.Admits.withState {l : Ledger} {e : TrackEntry} (admitted : l.Admits e)
    (request : e.kind ≠ .drainFence) (st : TrackState) : l.Admits { e with state := st } where
  fence := fun fence => absurd fence request
  other := admitted.other
  generation := admitted.generation

theorem mem_settle {t : Tracker} {fate : TrackEntry → Fate} {now : Time} {e : TrackEntry}
    (mem : e ∈ (t.settle now fate).entries) : ∃ f ∈ t.entries, fate f = .stay e := by
  obtain ⟨f, here, came⟩ := List.mem_filterMap.1 mem
  split at came
  · next fates => cases came; exact ⟨f, here, fates⟩
  · cases came

/-- When every removed entry is of another generation, the count of a generation is what it was. -/
theorem ofGeneration_settle {t : Tracker} {fate : TrackEntry → Fate} {g : Gen} (now : Time)
    (keeps : ∀ e e', fate e = .stay e' → e'.generation = e.generation)
    (others : ∀ r ∈ removals fate t.entries, r.entry.generation ≠ g) :
    (t.settle now fate).ofGeneration g = t.ofGeneration g := by
  unfold Tracker.ofGeneration Tracker.settle
  dsimp only
  generalize t.entries = l at others
  induction l with
  | nil => rfl
  | cons e l ih =>
    cases came : fate e with
    | stay e' =>
      simp only [removals, List.filterMap_cons, came, List.filter_cons] at others ih ⊢
      rw [keeps e e' came]
      split
      · simp only [List.length_cons, ih others]
      · exact ih others
    | cool cause =>
      simp only [removals, List.filterMap_cons, came, List.forall_mem_cons, List.filter_cons]
        at others ih ⊢
      rw [ih others.2, if_neg (by simpa using others.1)]

/-- A change of the state of entries leaves the count of a generation as it was. -/
theorem ofGeneration_setState (t : Tracker) (tag : Tag) (st : TrackState) (g : Gen) :
    (t.setState tag st).ofGeneration g = t.ofGeneration g := by
  have kept : ∀ e : TrackEntry,
      (if e.tag = tag then { e with state := st } else e).generation = e.generation := by
    intro e; split <;> rfl
  simp [Tracker.ofGeneration, Tracker.setState, List.filter_map, Function.comp_def, kept]

namespace Ledger.Lawful

/-- An event that acts on every entry is a recount that keeps the laws. -/
theorem settle {l : Ledger} (lawful : l.Lawful) {fate : TrackEntry → Fate} (settles : l.Settles fate)
    (now : Time) : (l.recount (l.tracker.settle now fate)).Lawful :=
  lawful.recount (lawful.tags.settle now settles.tag) fun e mem => by
    obtain ⟨f, here, came⟩ := mem_settle mem
    exact settles.admits f e came (lawful.entries f here)

end Ledger.Lawful

/-- A fate that leaves entries as they are, changes the state of requests, or removes entries. -/
theorem Ledger.settles_of_states {l : Ledger} {fate : TrackEntry → Fate}
    (stays : ∀ e e', fate e = .stay e' → e' = e ∨
      (l.Admits e → e.kind ≠ .drainFence) ∧ ∃ st, e' = { e with state := st }) : l.Settles fate where
  tag := fun e e' came => by rcases stays e e' came with rfl | ⟨-, st, rfl⟩ <;> rfl
  generation := fun e e' came => by rcases stays e e' came with rfl | ⟨-, st, rfl⟩ <;> rfl
  admits := fun e e' came admitted => by
    rcases stays e e' came with rfl | ⟨request, st, rfl⟩
    · exact admitted
    · exact admitted.withState (request admitted) st

/-- What a port-down makes of the entries keeps what the laws ask of them: a drain fence, which has no origin,
is removed with its port and stays as it is at the other's. -/
theorem portDownFate_settles (l : Ledger) (p : Port) (down : Port → Bool) (event : Nat) :
    l.Settles (portDownFate p down event) := by
  have request {e : TrackEntry} (origin : e.origin ≠ none) : l.Admits e → e.kind ≠ .drainFence :=
    fun admitted fence => origin (admitted.fence fence).2.2.1
  refine Ledger.settles_of_states fun e e' came => ?_
  unfold portDownFate TrackEntry.originIs at came
  split at came
  · split at came
    · split at came
      · cases came
      · next o origin =>
        split at came <;> cases came
        exact .inr ⟨request (by rw [origin]; nofun), _, rfl⟩
    · split at came
      · next fromPort =>
        cases came
        exact .inr ⟨request fun none => by simp [none] at fromPort, _, rfl⟩
      · cases came; exact .inl rfl
  · split at came <;> cases came
    exact .inl rfl
  · split at came <;> cases came
    exact .inl rfl

/-- FORCE_DRAIN closes requests alone. -/
theorem forceFate_settles (l : Ledger) (gen : Gen) (event : Nat) : l.Settles (forceFate gen event) := by
  refine Ledger.settles_of_states fun e e' came => ?_
  unfold forceFate at came
  split at came
  · split at came
    · split at came
      · cases came
      · next request => cases came; exact .inr ⟨fun _ => request, _, rfl⟩
    · cases came
    · cases came; exact .inl rfl
  · cases came; exact .inl rfl

end Sys2Proof
end

section
/-! PROOFS. The events that do more to the tracker or the drain than remove one entry keep the laws. -/

namespace Sys2Proof

open Machine

/-! ### Changes that leave the count of the drain alone -/

section Events

variable {s : State} (lawful : (ledger s).Lawful)

include lawful

/-- A new entry of the current generation is not counted by the drain, whose generation is another. -/
theorem allocateEntry_keeps {e : TrackEntry} {rest : List Tag} (head : s.tracker.free = e.tag :: rest)
    (request : e.kind ≠ .drainFence) (origin : e.origin ≠ none)
    (current : e.generation = s.steering.generation) : (ledger (allocateEntry e s)).Lawful := by
  have traffic : e.tag.toNat ≤ 125 := lawful.tags.pool e.tag (by
    rw [show (ledger s).tracker.free = _ from head]; exact List.mem_cons_self)
  have added : (ledger s).Admits e :=
    ⟨fun fence => absurd fence request, fun _ => ⟨traffic, origin⟩, .inl current⟩
  have entries : ∀ f ∈ (s.tracker.allocate e).entries, (ledger s).Admits f := fun f mem => by
    rcases List.mem_append.1 mem with mem | mem
    · exact lawful.entries f mem
    · exact List.mem_singleton.1 mem ▸ added
  refine lawful.withTracker (lawful.tags.allocate head) entries fun draining => ?_
  have other : e.generation ≠ (ledger s).drainGeneration := fun same =>
    lawful.drainGeneration_ne draining (same.symm.trans current)
  change (s.tracker.allocate e).ofGeneration _ = s.tracker.ofGeneration _
  simp [Tracker.ofGeneration, Tracker.allocate, other]

/-- The expiry of an AWAITING request closes it and no other entry (R59). -/
theorem expireAwaiting_keeps {e : TrackEntry} (mem : e ∈ s.tracker.entries)
    (request : e.kind ≠ .drainFence) : (ledger (expireAwaiting e s)).Lawful := by
  refine lawful.withTracker (lawful.tags.setState e.tag _) (fun f here => ?_)
    fun _ => ofGeneration_setState _ _ _ _
  obtain ⟨k, stands, rfl⟩ := List.mem_map.1 here
  split
  · next same =>
    exact (lawful.entries k stands).withState (lawful.tags.entry_unique mem stands same ▸ request) _
  · exact lawful.entries k stands

/-- The end of a cooling period leaves the entries alone (R46). -/
theorem endCooling_keeps {m : CoolingTag} (mem : m ∈ s.tracker.cooling) :
    (ledger (endCooling m.tag s)).Lawful := by
  have kept := lawful.withTracker (lawful.tags.endCooling mem) lawful.entries fun _ => rfl
  unfold endCooling
  dsimp only
  split
  · next traffic => rw [if_pos traffic] at kept; exact kept
  · next fence => rw [if_neg fence] at kept; exact kept

/-! ### Events that act on every entry -/

/-- The tracker's part of a port-down (R62, R63). -/
theorem trackerPortDown_keeps (p : Port) : (ledger (trackerPortDown p s).1).Lawful := by
  have settles := portDownFate_settles (ledger s) p (fun q => (s.port q).state.down) s.events
  have counted : ledger (trackerPortDown p s).1 = (ledger s).recount (s.tracker.settle s.timebase
      (portDownFate p (fun q => (s.port q).state.down) s.events)) := by
    refine ledger_takeReports lawful rfl fun draining silent => ?_
    refine ofGeneration_settle s.timebase settles.generation fun r gone same => ?_
    have current : r.entry.generation = s.generation :=
      not_not.1 fun other => List.filter_eq_nil_iff.1 silent r gone (decide_eq_true other)
    exact lawful.drainGeneration_ne draining (same.symm.trans current)
  exact counted ▸ lawful.settle settles s.timebase

/-- FORCE_DRAIN during a drain takes the count anew whether or not it removes an entry (R102). -/
theorem forceDrain_keeps (draining : s.commit.state = .draining) : (ledger (forceDrain s)).Lawful := by
  have settles := forceFate_settles (ledger s) s.commit.drainGeneration s.events
  obtain ⟨stateKept, genKept⟩ := foldl_takeReport
    (removals (forceFate s.commit.drainGeneration s.events) s.tracker.entries)
    { s.commit with forced := true }
  unfold forceDrain
  simp only [ledger_raiseList]
  rw [settleDrain_eq _ (stateKept.trans draining) rfl]
  dsimp only
  rw [drainEnded_remaining]
  exact (ledger_drainEnded (u := setTracker _ s) draining stateKept genKept
    (ledger_setTracker _ _)) ▸ lawful.settle settles s.timebase

/-- The warm reset removes the drain fences, gives every other entry the new generation, and ends the drain
(R68, R103). -/
theorem warmResetAll_keeps : (ledger (warmResetAll s)).Lawful := by
  obtain ⟨order, -, -, reset⟩ := warmResetAll_eq s
  have same : ledger (warmResetAll s) = ledger (blocksReset s) := by rw [reset]; rfl
  have idle : (ledger (blocksReset s)).state = .idle := by
    change (drainAbandoned s.timebase s.commit).state = .idle
    unfold drainAbandoned
    split
    · rfl
    · next h => cases came : s.commit.state with
      | idle => rfl
      | draining => exact absurd came h
  have none : (ledger (blocksReset s)).remaining = 0 := by
    change (drainAbandoned s.timebase s.commit).remaining = 0
    unfold drainAbandoned
    split
    · rfl
    · next h => exact not_not.1 fun left => h (lawful.goesOn.2 left)
  have fates := warmFate_eq (s.generation + 1) s.events
  rw [same]
  exact {
    tags := lawful.tags.settle s.timebase fun e e' came => by
      rw [fates] at came
      split at came <;> cases came
      rfl
    entries := fun e mem => by
      obtain ⟨f, stood, came⟩ := mem_settle mem
      have admitted := lawful.entries f stood
      rw [fates] at came
      split at came <;> cases came
      next stays =>
      have request : f.kind ≠ .drainFence := fun fence =>
        stays (.inr ⟨(admitted.fence fence).2.1, fence⟩)
      exact ⟨fun fence => absurd fence request, fun _ => admitted.other request, .inl rfl⟩
    placing := fun p => by cases p <;> nofun
    releasing := lawful.releasing
    drainGeneration := by rw [idle]; nofun
    remaining := by rw [idle]; nofun
    goesOn := by rw [idle, none]; exact ⟨nofun, fun h => absurd rfl h⟩ }

/-! ### The swap (R93 to R96) -/

/-- Outside a drain there is no drain fence, and every entry is of the current generation. -/
theorem entry_of_idle (idle : s.commit.state ≠ .draining) {e : TrackEntry}
    (mem : e ∈ s.tracker.entries) : e.kind ≠ .drainFence ∧ e.generation = s.steering.generation :=
  have admitted := lawful.entries e mem
  ⟨fun fence => idle (admitted.fence fence).2.2.2.1,
    admitted.generation.resolve_right fun drain => idle drain.1⟩

/-- A fence tag is idle when no drain goes on and none cools. -/
theorem fenceTag_idle (idle : s.commit.state ≠ .draining) (ready : ¬coolingIndicator s = true)
    (p : Port) : fenceTag p ∉ s.tracker.tags := by
  have notTraffic : ¬(fenceTag p).toNat ≤ 125 := by cases p <;> decide
  rw [coolingIndicator_iff, not_or] at ready
  rw [mem_tags]
  rintro (pool | ⟨m, cools, tag⟩ | ⟨e, used, tag⟩)
  · exact notTraffic (lawful.tags.pool _ pool)
  · exact ready.1 ⟨m, cools, by cases p <;> simp [tag, fenceTag]⟩
  · exact notTraffic (tag ▸ ((lawful.entries e used).other (entry_of_idle lawful idle used).1).1)

theorem addFences_tags (idle : s.commit.state ≠ .draining) (ready : ¬coolingIndicator s = true) :
    (s.tracker.addFences s).TagsLawful := by
  have fences : ((upPorts s).map fun p => drainFenceEntry s p s.generation).map (·.tag) =
      (upPorts s).map fenceTag := by
    rw [List.map_map]; rfl
  have distinct : ((upPorts s).map fenceTag).Nodup :=
    (show ([Port.u, .d].map fenceTag).Nodup by decide).sublist (List.filter_sublist.map _)
  have split : (s.tracker.addFences s).tags = s.tracker.tags ++ (upPorts s).map fenceTag := by
    simp only [Tracker.tags, Tracker.addFences, List.map_append, fences, List.append_assoc]
  refine ⟨?_, lawful.tags.pool, fun tag traffic => ?_⟩
  · rw [split, List.nodup_append]
    refine ⟨lawful.tags.nodup, distinct, ?_⟩
    rintro _ here _ fence rfl
    obtain ⟨p, -, rfl⟩ := List.mem_map.1 fence
    exact fenceTag_idle lawful idle ready p here
  · rw [split]
    exact List.mem_append_left _ (lawful.tags.complete tag traffic)

/-- The entries at a swap are all of the generation that the drain is to empty. -/
theorem swapBegun_admits (idle : s.commit.state ≠ .draining) {e : TrackEntry}
    (mem : e ∈ (s.tracker.addFences s).entries) :
    (ledger (swapBegun s)).Admits e ∧ e.generation = s.steering.generation := by
  rcases List.mem_append.1 mem with mem | mem
  · obtain ⟨request, current⟩ := entry_of_idle lawful idle mem
    exact ⟨⟨fun fence => absurd fence request, (lawful.entries e mem).other, .inr ⟨rfl, current⟩⟩,
      current⟩
  · obtain ⟨p, -, rfl⟩ := List.mem_map.1 mem
    exact ⟨⟨fun _ => ⟨by rw [fenceTagOf_eq]; rfl, rfl, rfl, rfl, rfl⟩, fun request => absurd rfl request,
      .inr ⟨rfl, rfl⟩⟩, rfl⟩

/-- A swap keeps the laws: its drain begins with the count of every entry, and ends with the swap when there
is none. -/
theorem takeSwap_keeps (idle : s.commit.state ≠ .draining) (ready : ¬coolingIndicator s = true) :
    (ledger (takeSwap s)).Lawful := by
  have tags := addFences_tags lawful idle ready
  by_cases entries : (s.tracker.addFences s).entries = []
  · have ended : ledger (takeSwap s) = { ledger (swapBegun s) with state := .idle } := by
      rw [takeSwap_ends entries]; rfl
    have count : (ledger (swapBegun s)).remaining = 0 := List.length_eq_zero_iff.2 entries
    rw [ended]
    exact {
      tags := tags
      entries := fun e mem => (List.eq_nil_iff_forall_not_mem.1 entries e mem).elim
      placing := lawful.placing
      releasing := lawful.releasing
      drainGeneration := nofun
      remaining := nofun
      goesOn := ⟨nofun, fun left => absurd count left⟩ }
  · have begun : ledger (takeSwap s) = ledger (swapBegun s) := by
      rw [takeSwap_goesOn entries]; rfl
    rw [begun]
    exact {
      tags := tags
      entries := fun e mem => (swapBegun_admits lawful idle mem).1
      placing := lawful.placing
      releasing := lawful.releasing
      drainGeneration := fun _ => rfl
      remaining := fun _ => by
        refine congrArg List.length (List.filter_eq_self.2 fun e mem => ?_).symm
        exact decide_eq_true (swapBegun_admits lawful idle mem).2
      goesOn := ⟨fun _ left => entries (List.length_eq_zero_iff.1 left), fun _ => rfl⟩ }

end Events

end Sys2Proof
end

section
/-! PROOFS. Every command keeps the laws of the tracker and the drain, and what follows for every step. -/

namespace Sys2Proof

open Machine

/-! ### What arrives, what the tracker gives and what a reply matches -/

/-- The other packets that arrive, and a transmission, change the port and its wait marks alone. -/
theorem ledger_arrivals (s : State) (p : Port) : ledger (arriveReady p s) = ledger s ∧
    (∀ pkt seq, ledger (arriveTraffic p pkt seq s) = ledger s) ∧
    (∀ seq credit, ledger (arriveAck p seq credit s) = ledger s) ∧
    (∀ seq, ledger (arriveReplayReq p seq s) = ledger s) ∧ ledger (transmit p s) = ledger s := by
  have ack : ∀ seq credit (u : State), ledger (takeAck p seq credit u) = ledger u := by
    intro seq credit u
    unfold takeAck
    dsimp only
    repeat' split
    all_goals rfl
  refine ⟨?_, fun pkt seq => ?_, fun seq credit => ?_, fun seq => ?_, ?_⟩
  · unfold arriveReady
    repeat' split
    all_goals rfl
  · unfold arriveTraffic
    repeat' split
    all_goals rfl
  · unfold arriveAck
    repeat' split
    all_goals simp only [ack, ledger_enterUp]
  · unfold arriveReplayReq takeReplayReq
    dsimp only
    repeat' split
    all_goals rfl
  · unfold transmit
    dsimp only
    repeat' split
    all_goals rfl

/-- A tag that the tracker gives stands at the head of the pool, under the current generation. -/
theorem allocAnswer_spec {s : State} {gen : Gen} {t : Tag} (given : allocAnswer gen s = .tag t) :
    (∃ rest, s.tracker.free = t :: rest) ∧ gen = s.steering.generation := by
  unfold allocAnswer at given
  split at given
  · cases given
  · next rest free =>
    split at given <;> cases given
    next current => exact ⟨⟨rest, free⟩, current⟩

theorem steeredEntry_request {s : State} {t : Tag} {p : Port} {req : Packet} {dec : Decision}
    {egress : Port} {dest : UnitNo} {address : Addr} {timeout : Time} :
    (steeredEntry s t p req dec egress dest address timeout).kind ≠ .drainFence := by
  unfold steeredEntry newEntry
  dsimp only
  split <;> nofun

theorem matchReply_spec {p : Port} {reply : Packet} {t : Tracker} {e : TrackEntry}
    (found : matchReply p reply t = some e) : e ∈ t.entries := by
  unfold matchReply at found
  split at found
  · cases found
  · next k under =>
    split at found <;> cases found
    exact (tracker_find_spec under).1

section Events

variable {s : State} (lawful : (ledger s).Lawful)

include lawful

/-! ### Link ports -/

/-- A release that a port-down stops hands its tag back (R79). -/
theorem releasePortDown_keeps (p : Port) : (ledger (releasePortDown p s).1).Lawful := by
  unfold releasePortDown
  cases inProgress : s.hold.release with
  | none => exact lawful
  | some r =>
    dsimp only
    split
    · rw [ledger_endRelease]
      refine Ledger.Lawful.ends ?_
      split
      · next dec e phase =>
        split
        · next found =>
          have traffic : e.tag.toNat ≤ 125 :=
            lawful.releasing e.tag (releaseTag_eq_some.2 ⟨r, dec, e, inProgress, phase, rfl⟩)
          exact withdraw_keeps lawful (tracker_find_spec found).1 traffic
        · exact lawful
      · exact lawful
    · exact lawful

theorem portDown_keeps (p : Port) : (ledger (portDown p s)).Lawful := by
  have stopped : (ledger (managementPortDown p (dispatcherPortDown p
      (s.setPort p (((s.port p).goDown).fault p s.timebase))))).Lawful := by
    rw [ledger_managementPortDown, ledger_dispatcherPortDown, ledger_setPort]
    exact lawful.leaves p
  unfold portDown
  simp only [ledger_clearAllMarks, ledger_raiseTogether, ledger_holdPortDown]
  exact trackerPortDown_keeps (releasePortDown_keeps stopped p) p

theorem failAttempt_keeps (p : Port) (a : Attempt) : (ledger (failAttempt p a s)).Lawful := by
  unfold failAttempt enterFaulted
  dsimp only
  split
  · exact lawful
  · split
    · exact portDown_keeps lawful p
    · exact lawful

theorem arriveSpeed_keeps (p : Port) (mode lanes rate : Byte) :
    (ledger (arriveSpeed p mode lanes rate s)).Lawful := by
  unfold arriveSpeed trainSpeed
  repeat' split
  all_goals simp [lawful, failAttempt_keeps]

theorem takeIdent_keeps (p : Port) (a : Attempt) (unit : UnitNo) (free : Trio Nat) (last : SeqNo) :
    (ledger (takeIdent p a unit free last s)).Lawful := by
  unfold takeIdent
  dsimp only
  split
  · exact lawful
  · split
    · exact failAttempt_keeps (s := s.setPort p _) lawful p a
    · split
      · exact lawful
      · exact failAttempt_keeps (s := s.setPort p _) lawful p a

theorem arriveIdent_keeps (p : Port) (unit : UnitNo) (free : Trio Nat) (last : SeqNo) :
    (ledger (arriveIdent p unit free last s)).Lawful := by
  unfold arriveIdent
  split
  · exact lawful
  · split
    · exact lawful
    · exact takeIdent_keeps lawful p _ unit free last
    · exact lawful

/-! ### Dispatches -/

theorem refuse_keeps (p : Port) (ch : Chan) (req : Packet) (status : ReplyStatus)
    (dec : Option Decision) (ns : List NoticeReq) :
    (ledger (refuse p ch req status dec ns s)).Lawful := by
  unfold refuse
  repeat' split
  all_goals simp [lawful]

theorem apertureAccess_keeps (p : Port) (ch : Chan) (req : Packet) :
    (ledger (apertureAccess p ch req s)).Lawful := by
  unfold apertureAccess
  repeat' split
  all_goals simp [lawful, refuse_keeps]

theorem carryOut_keeps (p : Port) (ch : Chan) (req : Packet) (dec : Decision) :
    (ledger (carryOut p ch req dec s)).Lawful := by
  unfold carryOut egressDown
  repeat' split
  all_goals simp [lawful, refuse_keeps, placementTag]

theorem dispatchRequest_keeps (p : Port) (ch : Chan) (slot : InSlot) :
    (ledger (dispatchRequest p ch slot s)).Lawful := by
  unfold dispatchRequest refuseMalformed fenceDispatch
  dsimp only
  repeat' split
  all_goals simp [lawful, refuse_keeps, apertureAccess_keeps, carryOut_keeps, placementTag]

theorem dispatchHead_keeps (p : Port) : (ledger (dispatchHead p s)).Lawful := by
  unfold dispatchHead
  repeat' split
  all_goals simp [lawful, dispatchRequest_keeps, placementTag]

theorem dispatcherHoldOffer_keeps (p : Port) : (ledger (dispatcherHoldOffer p s)).Lawful := by
  unfold dispatcherHoldOffer
  split
  · split
    · split
      · rw [ledger_complete]
        exact lawful.leaves p
      · repeat' split
        all_goals simp [lawful]
    · exact lawful
  · exact lawful

theorem dispatcherPOffer_keeps (p : Port) : (ledger (dispatcherPOffer p s)).Lawful := by
  unfold dispatcherPOffer egressDown
  repeat' split
  all_goals simp [lawful, refuse_keeps]

/-- An allocation makes a request's entry, and the placement that follows has its tag. -/
theorem allocation_keeps {t : Tag} {gen : Gen} {e : TrackEntry} (given : allocAnswer gen s = .tag t)
    (tag : e.tag = t) (request : e.kind ≠ .drainFence) (origin : e.origin ≠ none)
    (current : e.generation = gen) :
    (ledger (allocateEntry e s)).Lawful ∧ e.tag.toNat ≤ 125 := by
  obtain ⟨⟨rest, head⟩, now⟩ := allocAnswer_spec given
  rw [← tag] at head
  have pool : e.tag ∈ (ledger s).tracker.free := head ▸ List.mem_cons_self
  exact ⟨allocateEntry_keeps lawful head request origin (current.trans now), lawful.tags.pool _ pool⟩

theorem dispatcherAllocation_keeps (p : Port) : (ledger (dispatcherAllocation p s)).Lawful := by
  have begun {t : Tag} {gen : Gen} {e : TrackEntry} (dec : Option Decision)
      (given : allocAnswer gen s = .tag t) (tag : e.tag = t) (request : e.kind ≠ .drainFence)
      (origin : e.origin ≠ none) (current : e.generation = gen) :
      (ledger (setWork p (.place dec e) (allocateEntry e s))).Lawful := by
    obtain ⟨kept, traffic⟩ := allocation_keeps lawful given tag request origin current
    rw [ledger_setWork]
    exact kept.withPlacing p fun k is => Option.some.inj is ▸ traffic
  unfold dispatcherAllocation
  split
  · split
    · split
      · simp [lawful]
      · simp [lawful]
      · next given => exact begun _ given rfl steeredEntry_request nofun rfl
    · exact lawful
  · split
    · next given => exact begun none given rfl nofun nofun rfl
    · simp [lawful]
  · exact lawful

theorem dispatcherPlacement_keeps (p : Port) : (ledger (dispatcherPlacement p s)).Lawful := by
  unfold dispatcherPlacement
  split
  · next dec e req work _ =>
    have traffic : e.tag.toNat ≤ 125 := lawful.placing p e.tag (by
      rw [ledger_placing]; exact placementTag_eq_some.2 ⟨dec, e, work, rfl⟩)
    split
    · simp [lawful]
    · next full =>
      rw [ledger_dropHead]
      exact (handBack_keeps lawful (placeAnswer_found full) traffic).leaves p
    · simp [lawful]
    · simp [lawful]
  · exact lawful

/-! ### Replies -/

theorem presentReply_keeps (p : Port) (reply : Packet) :
    (ledger (presentReply p reply s)).Lawful := by
  unfold presentReply discardLate consumeFenceReply discardOrphan
  split
  · simp [lawful]
  · next e found =>
    have mem := matchReply_spec found
    split
    · rw [ledger_finishHead]
      exact (reply_keeps lawful mem _ _).leaves p
    · split
      · simp [lawful, placementTag]
      · rw [ledger_finishHead]
        exact (reply_keeps lawful mem _ _).leaves p

theorem takeReply_keeps (p : Port) (reply : Packet) (e : TrackEntry) :
    (ledger (takeReply p reply e s)).Lawful := by
  unfold takeReply
  split
  · next same =>
    split
    · simp [lawful]
    · split
      · rw [ledger_finishHead]
        exact (reply_keeps (s := enqueue _ _ _ s) lawful (matchReply_spec same.1) _ _).leaves p
      · simp [lawful]
  · simp [lawful]

theorem placeClosing_keeps (p : Port) : (ledger (placeClosing p s)).Lawful := by
  unfold placeClosing
  split
  · exact lawful
  · next e chosen =>
    have mem := List.mem_of_mem_filter ((oldestClosing_spec s.tracker p).2 e chosen).1
    split
    · split
      · exact coolEntry_keeps (s := enqueue _ _ _ s) lawful mem _ _
      · exact lawful
    · exact lawful

end Events

end Sys2Proof
end

section
/-! PROOFS. Every command keeps the laws of the tracker and the drain, and what follows for every step. -/

namespace Sys2Proof

open Machine

theorem releasing_spec {s : State} {r : Release} {h : HoldSlot} (current : releasing s = some (r, h)) :
    s.hold.release = some r := by
  unfold releasing at current
  split at current
  · cases current
  · next k inProgress =>
    split at current <;> cases current
    exact inProgress

/-- A release that begins waits first, so it takes no tag yet. -/
theorem startRelease_keeps {s : State} (lawful : (ledger s).Lawful) (body : List Byte) :
    (ledger (startRelease body s).state).Lawful := by
  unfold startRelease
  dsimp only
  split
  · exact lawful
  · split
    · exact lawful
    · exact lawful.ends

section Events

variable {s : State} (lawful : (ledger s).Lawful)

include lawful

/-! ### The Hold Queue and releases -/

theorem placeAnswer_keeps (p : Port) : (ledger (placeAnswer p s)).Lawful := by
  unfold placeAnswer
  repeat' split
  all_goals simp [lawful]

theorem endWait_keeps : (ledger (endWait s)).Lawful := by
  unfold endWait
  repeat' split
  all_goals simp [lawful, releaseTag]

theorem releaseLookup_keeps (r : Release) (h : HoldSlot) : (ledger (releaseLookup r h s)).Lawful := by
  unfold releaseLookup
  dsimp only
  repeat' split
  all_goals simp [lawful, releaseTag]

theorem releasePOffer_keeps (r : Release) (h : HoldSlot) (dec : Decision) :
    (ledger (releasePOffer r h dec s)).Lawful := by
  unfold releasePOffer
  repeat' split
  all_goals simp [lawful, releaseTag]

theorem releaseAllocation_keeps (r : Release) (h : HoldSlot) (dec : Decision) :
    (ledger (releaseAllocation r h dec s)).Lawful := by
  unfold releaseAllocation
  split
  · split
    · simp [lawful]
    · simp [lawful, releaseTag]
    · next given =>
      obtain ⟨kept, traffic⟩ :=
        allocation_keeps lawful given rfl steeredEntry_request nofun rfl
      rw [ledger_setPhase]
      exact kept.withReleasing fun k is => Option.some.inj is ▸ traffic
  · exact lawful

theorem releasePlacement_keeps (h : HoldSlot) (dec : Decision) {e : TrackEntry}
    (traffic : e.tag.toNat ≤ 125) : (ledger (releasePlacement h dec e s)).Lawful := by
  unfold releasePlacement
  split
  · simp [lawful]
  · next full =>
    rw [ledger_endHeld]
    exact (handBack_keeps lawful (placeAnswer_found full) traffic).ends
  · simp [lawful]
  · simp [lawful]

/-- The tag of the placement of the release in progress is a traffic tag. -/
theorem releasing_traffic {r : Release} {h : HoldSlot} {dec : Decision} {e : TrackEntry}
    (current : releasing s = some (r, h)) (phase : r.phase = .place dec e) : e.tag.toNat ≤ 125 :=
  lawful.releasing e.tag
    (releaseTag_eq_some.2 ⟨r, dec, e, releasing_spec current, phase, rfl⟩)

theorem nextReleaseStep_keeps : (ledger (nextReleaseStep s)).Lawful := by
  unfold nextReleaseStep
  split
  · next r h current =>
    split
    · exact lawful
    · exact releaseLookup_keeps lawful r h
    · exact releasePOffer_keeps lawful r h _
    · exact releaseAllocation_keeps lawful r h _
    · next phase => exact releasePlacement_keeps lawful h _ (releasing_traffic lawful current phase)
  · exact lawful

theorem holdPOffer_keeps : (ledger (holdPOffer s)).Lawful := by
  unfold holdPOffer
  repeat' split
  all_goals simp [lawful, releasePOffer_keeps]

theorem holdAllocation_keeps : (ledger (holdAllocation s)).Lawful := by
  unfold holdAllocation
  repeat' split
  all_goals simp [lawful, releaseAllocation_keeps]

theorem holdPlacement_keeps : (ledger (holdPlacement s)).Lawful := by
  unfold holdPlacement
  split
  · next r h current =>
    split
    · next phase => exact releasePlacement_keeps lawful h _ (releasing_traffic lawful current phase)
    · exact lawful
  · exact lawful

/-! ### Commands of the Management Unit -/

theorem runSetParam_keeps (body : List Byte) : (ledger (runSetParam body s).2).Lawful := by
  have same (v : ParamValue) : ledger (setParam v s).2 = ledger s := by
    cases v with
    | replyTimeout | holdLimit | linkPref => rfl
    | default | noticeTarget | unit =>
      simp only [setParam]
      split_ifs <;> rfl
  unfold runSetParam
  split
  · exact lawful
  · exact (same _).symm ▸ lawful

/-- What a command does, alone or as a member of a batch, keeps the laws. -/
theorem runCommand_keeps (code : CommandCode) (body : List Byte) :
    (ledger (runCommand code body s).state).Lawful := by
  have edited (edit : EditResult) : ledger (applyEdit edit s).2 = ledger s := by cases edit <;> rfl
  cases code with
  | insert => exact (edited _).symm ▸ lawful
  | remove => exact (edited _).symm ▸ lawful
  | modify => exact (edited _).symm ▸ lawful
  | move => exact (edited _).symm ▸ lawful
  | commit =>
    simp only [runCommand, runCommit]
    split_ifs with draining cooling
    · exact lawful
    · exact lawful
    · exact takeSwap_keeps lawful draining cooling
  | forceDrain =>
    simp only [runCommand, runForceDrain]
    split_ifs with draining
    · exact forceDrain_keeps lawful draining
    · exact lawful
  | release => exact startRelease_keeps lawful body
  | discard =>
    simp only [runCommand, runDiscard]
    split_ifs
    · exact lawful
    · split
      · exact lawful
      · exact (ledger_refuseHeld s _ _).symm ▸ lawful
  | setParam => exact runSetParam_keeps lawful body
  | setAperture =>
    simp only [runCommand, runSetAperture]
    split_ifs <;> exact lawful
  | setManagers =>
    simp only [runCommand, runSetManagers]
    split_ifs <;> exact lawful
  | linkRestart =>
    simp only [runCommand, runLinkRestart]
    split_ifs <;> exact lawful
  | nop | clearStaging | lockManagers | warmReset | batch => exact lawful

/-- A single command does what its run does, and is answered. -/
theorem takeCommand_keeps {code : CommandCode} {run : List Byte → CommandRun}
    (runs : ∀ body, (runCommand code body s).state = (run body s).2) :
    (ledger (takeCommand code run s)).Lawful := by
  unfold takeCommand
  split
  next body _ =>
    split
    · rw [ledger_answerHead, ← runs]
      exact runCommand_keeps lawful code body
    · exact lawful
  · exact lawful

theorem runMember_keeps (code : CommandCode) (body : List Byte) (last : Bool) :
    (ledger (runMember code body last s).state).Lawful := by
  unfold runMember
  split
  · exact lawful
  · exact runCommand_keeps lawful code body

/-- The execution pass of a batch runs its members one after the other. -/
theorem runMembers_keeps (members : Nat) (run : BatchRun) :
    (ledger (runMembers members run s)).Lawful := by
  induction members generalizing run s with
  | zero => exact (ledger_setHeadState s _).symm ▸ lawful
  | succ members ih =>
    unfold runMembers
    split
    · exact (ledger_answerHead s _ _).symm ▸ lawful
    next code body rest _ =>
      have member := runMember_keeps lawful code body rest.isEmpty
      split
      · next r u came =>
        rw [came] at member
        split_ifs
        · exact (ledger_answerHead u _ _).symm ▸ member
        · exact ih member _
        · exact (ledger_answerHead u _ _).symm ▸ member
      · next u came =>
        rw [came] at member
        exact (ledger_setHeadState u _).symm ▸ member

theorem takeBatch_keeps (members : Nat) : (ledger (takeBatch members s)).Lawful := by
  unfold takeBatch
  repeat' split
  all_goals simp [lawful, runMembers_keeps]

theorem takeRelease_keeps : (ledger (takeRelease s)).Lawful := by
  unfold takeRelease
  split
  next body _ =>
    have started := startRelease_keeps lawful body
    split
    · next r u came => rw [came] at started; exact (ledger_answerHead u _ _).symm ▸ started
    · next u came => rw [came] at started; exact (ledger_setHeadState u _).symm ▸ started
  · exact lawful

/-- Placing the reply of a WARM_RESET is the warm reset; no other reply touches the ledger. -/
theorem offerReply_keeps : (ledger (offerReply s)).Lawful := by
  unfold offerReply
  split
  · exact lawful
  next slot _ _ =>
    split
    · split
      · dsimp only
        split
        · exact warmResetAll_keeps (s := placeReply slot _ _ s) lawful
        · exact lawful
      · exact lawful
      · exact lawful
    · exact lawful

end Events

/-- The other accesses at the head of the command queue, the capture of a read and the emission of a notice
leave the ledger alone. -/
theorem ledger_headAccesses (s : State) :
    ledger (takeWarmReset s) = ledger s ∧ ledger (takeMalformed s) = ledger s ∧
      ledger (takeUnsupported s) = ledger s ∧ ledger (takeNotManager s) = ledger s ∧
      ledger (takePop s) = ledger s ∧ ledger (captureRead s) = ledger s ∧
      ledger (emitNotice s) = ledger s := by
  refine ⟨?_, ?_, ?_, ?_, ?_, ?_, ?_⟩
  · unfold takeWarmReset; split <;> simp
  · unfold takeMalformed; split <;> simp
  · unfold takeUnsupported; split <;> simp
  · unfold takeNotManager; split <;> simp
  · unfold takePop; repeat' split
    all_goals simp
  · unfold captureRead; split <;> simp
  · unfold emitNotice; repeat' split
    all_goals simp

/-- A completion report changes counts and reports alone. -/
theorem ledger_count (s : State) (r : Report) (party : Party) :
    ledger { s with steering := (s.steering.count r).popReport party } = ledger s := by
  have generation : ((s.steering.count r).popReport party).generation = s.steering.generation := by
    unfold Steering.count
    cases party <;> (dsimp only [Steering.popReport]; split <;> rfl)
  unfold ledger
  rw [generation]

/-! ### Cold reset -/

/-- After a cold reset every traffic tag is in the pool (R69). -/
theorem mem_cold_free {tag : Tag} : tag ∈ Tracker.cold.free ↔ tag.toNat ≤ 125 := by
  have range : tag ∈ Tracker.cold.free ↔ ∃ i < 126, BitVec.ofNat 7 i = tag := by
    simp [Tracker.cold]
  rw [range]
  constructor
  · rintro ⟨i, small, rfl⟩
    rw [BitVec.toNat_ofNat]
    omega
  · exact fun traffic => ⟨tag.toNat, by omega, by simp⟩

theorem tagsLawful_cold : Tracker.cold.TagsLawful where
  nodup := by
    rw [show Tracker.cold.tags = Tracker.cold.free from List.append_nil _]
    refine List.nodup_range.map_on fun i small j small' same => ?_
    rw [List.mem_range] at small small'
    have numbers := congrArg BitVec.toNat same
    simp only [BitVec.toNat_ofNat] at numbers
    omega
  pool := fun _ => mem_cold_free.1
  complete := fun _ traffic => mem_tags.2 (.inl (mem_cold_free.2 traffic))

theorem ledger_reset_lawful : (ledger State.reset).Lawful where
  tags := tagsLawful_cold
  entries := fun _ mem => absurd mem List.not_mem_nil
  placing := fun p => by cases p <;> nofun
  releasing := nofun
  drainGeneration := nofun
  remaining := nofun
  goesOn := ⟨nofun, fun left => absurd rfl left⟩

/-! ### Every command -/

/-- Every command keeps the laws of the tracker and the drain. -/
theorem exec_keeps_ledger {c : Instr} {s t : State} (lawful : (ledger s).Lawful)
    (h : exec c s = .next t) : (ledger t).Lawful := by
  obtain ⟨warm, malformed, unsupported, notManager, pop, capture, emission⟩ := ledger_headAccesses s
  cases c with
  | coldReset strap => cases h; exact ledger_reset_lawful
  | nop | insert | remove | modify | move | clearStaging | commit | forceDrain | discard | setParam
  | setAperture | setManagers | lockManagers | linkRestart =>
    cases h; exact takeCommand_keeps lawful fun _ => rfl
  | batch members => cases h; exact takeBatch_keeps lawful members
  | commandReplyPlacement => cases h; exact offerReply_keeps (capture.symm ▸ lawful)
  | release => cases h; exact takeRelease_keeps lawful
  | warmReset => cases h; exact warm.symm ▸ lawful
  | malformedCommandBlock => cases h; exact malformed.symm ▸ lawful
  | unsupportedApertureAccess => cases h; exact unsupported.symm ▸ lawful
  | notManagerRefusal => cases h; exact notManager.symm ▸ lawful
  | noticePop => cases h; exact pop.symm ▸ lawful
  | noticeEmission => cases h; exact emission.symm ▸ lawful
  | dispatch p => cases h; exact dispatchHead_keeps lawful p
  | holdOffer p => cases h; exact dispatcherHoldOffer_keeps lawful p
  | pTransmitOffer party =>
    cases h
    cases party with
    | dispatcher p => exact dispatcherPOffer_keeps lawful p
    | hold => exact holdPOffer_keeps lawful
  | tagAllocation party =>
    cases h
    cases party with
    | dispatcher p => exact dispatcherAllocation_keeps lawful p
    | hold => exact holdAllocation_keeps lawful
  | nTransmitPlacement party =>
    cases h
    cases party with
    | dispatcher p => exact dispatcherPlacement_keeps lawful p
    | hold => exact holdPlacement_keeps lawful
  | hitCountReport party =>
    cases h
    split
    · exact lawful
    · exact (ledger_count s _ party).symm ▸ lawful
  | replyPresentation p =>
    cases h
    split
    · exact presentReply_keeps lawful p _
    · exact lawful
  | replyTake p =>
    cases h
    split
    · exact takeReply_keeps lawful p _ _
    · exact lawful
  | entryExpiry tag =>
    cases h
    split
    · next e due =>
      obtain ⟨under, -, request, -⟩ := (dueAwaiting_iff (reached_iff s.timebase) tag e).1 due
      exact expireAwaiting_keeps lawful (tracker_find_spec under).1 request
    · exact lawful
  | drainFenceExpiry p =>
    cases h
    split
    · next e due =>
      obtain ⟨under, -⟩ := (dueFence_iff (reached_iff s.timebase) p e).1 due
      exact coolEntry_keeps lawful (tracker_find_spec under).1 _ _
    · exact lawful
  | orphanedExpiry tag =>
    cases h
    split
    · next e due =>
      obtain ⟨under, -⟩ := (dueOrphan_iff (reached_iff s.timebase) tag e).1 due
      exact coolEntry_keeps lawful (tracker_find_spec under).1 _ _
    · exact lawful
  | coolingExpiry tag =>
    cases h
    split
    · next due =>
      obtain ⟨m, cools, rfl, -⟩ := (dueCooling_iff (reached_iff s.timebase) tag).1 due
      exact endCooling_keeps lawful cools
    · exact lawful
  | closingReplyPlacement p => cases h; exact placeClosing_keeps lawful p
  | holdExpiry id =>
    cases h
    split
    · exact (ledger_expireHeld s _).symm ▸ lawful
    · exact lawful
  | holdAnswerPlacement p => cases h; exact placeAnswer_keeps lawful p
  | releaseWaitEnd => cases h; exact endWait_keeps lawful
  | releaseSteps => cases h; exact nextReleaseStep_keeps lawful
  | referenceClockStable | holdOffExpiry | sendAck | sendReplayReq | replayResend =>
    cases h
    split <;> simp [lawful]
  | attemptDeadlineExpiry p =>
    cases h
    split
    · exact failAttempt_keeps lawful p _
    · exact lawful
  | sendTrain p => cases h; exact lawful
  | ackDeadlineExpiry p =>
    cases h
    repeat' split
    all_goals simp [lawful]
  | speedReceived p wire =>
    cases h
    split
    · exact arriveSpeed_keeps lawful p _ _ _
    · exact lawful
  | identReceived p wire =>
    cases h
    split
    · exact arriveIdent_keeps lawful p _ _ _
    · exact lawful
  | readyReceived p _ | receivePacket p _ | ackReceived p _ | replayReqReceived p _ =>
    obtain ⟨ready, traffic, ack, replay, -⟩ := ledger_arrivals s p
    cases h
    repeat' split
    all_goals simp [lawful, ready, traffic, ack, replay, takeDamaged]
  | transmitPacket p => cases h; exact (ledger_arrivals s p).2.2.2.2.symm ▸ lawful

/-- Settles O56: a microsecond leaves the ledger alone, and every command keeps its laws. -/
theorem trackerLawsAreKept : Obligations.TrackerLawsAreKept := by
  intro s t laws h
  rw [trackerLaws_iff] at laws ⊢
  rcases step_cases h with rfl | ⟨c, pending, ran⟩
  · exact laws
  · exact exec_keeps_ledger (s := { s with pending := pending }) laws ran

end Sys2Proof
end

section
/-! PROOFS. The expiries of the tracker and the take of a restored reply. -/

namespace Sys2Proof

open Machine

/-! ### The expiries of entries (R59 to R61) -/

section Expiries

variable {s : State} {e : TrackEntry}

theorem entryExpiry_due {tag : Tag} (due : dueAwaiting reached tag s = some e) :
    exec (.entryExpiry tag) s = .next (expireAwaiting e s) := by
  simp only [exec, execEntryExpiry, due]

theorem entryExpiry_early {tag : Tag} (none : dueAwaiting reached tag s = none) :
    exec (.entryExpiry tag) s = .next s := by
  simp only [exec, execEntryExpiry, none]

theorem drainFenceExpiry_due {p : Port} (due : dueFence reached p s = some e) :
    exec (.drainFenceExpiry p) s = .next (coolEntry e .timeout [timeoutNotice e] s) := by
  simp only [exec, execDrainFenceExpiry, due]

theorem drainFenceExpiry_early {p : Port} (none : dueFence reached p s = none) :
    exec (.drainFenceExpiry p) s = .next s := by
  simp only [exec, execDrainFenceExpiry, none]

theorem orphanedExpiry_due {tag : Tag} (due : dueOrphan reached tag s = some e) :
    exec (.orphanedExpiry tag) s = .next (coolEntry e .linkDown [] s) := by
  simp only [exec, execOrphanedExpiry, due]

theorem orphanedExpiry_early {tag : Tag} (none : dueOrphan reached tag s = none) :
    exec (.orphanedExpiry tag) s = .next s := by
  simp only [exec, execOrphanedExpiry, none]

/-- The TIMEOUT notice of a request, and of a drain fence (R59, R60). -/
theorem timeoutNotice_eq (e : TrackEntry) :
    timeoutNotice e = timeoutFor e (if e.kind = .drainFence then 2 else 1) := rfl

theorem expireAwaiting_eq {tag : Tag} (under : entryUnder tag s = some e)
    (request : e.kind ≠ .drainFence) : expireAwaiting e s = noticed (timeoutFor e 1)
      { s with
        tracker := { s.tracker with entries := s.tracker.entries.map fun k =>
          if k.tag = tag then { k with state := .closing .timeout s.events } else k }
        events := s.events + 1 } := by
  obtain ⟨-, rfl⟩ := tracker_find_spec under
  unfold expireAwaiting
  rw [timeoutNotice_eq, if_neg request]
  rfl

end Expiries

/-- Settles O28: each expiry takes the entry that is due under its tag, and before the deadline none is. -/
theorem entryExpires : Obligations.EntryExpires := by
  have awaiting (tag : Tag) (s : State) := dueAwaiting_iff (reached_iff s.timebase) tag
  have fence (p : Port) (s : State) := dueFence_iff (reached_iff s.timebase) p
  have orphan (tag : Tag) (s : State) := dueOrphan_iff (reached_iff s.timebase) tag
  refine ⟨fun tag s e under state request past => ?_, fun p s e under state kind past => ?_,
    fun tag s e under state past => ?_, fun tag s => ⟨fun early => ?_, fun early => ?_⟩,
    fun p s early => ?_⟩
  · rw [entryExpiry_due ((awaiting tag s e).2 ⟨under, state, request, past⟩),
      expireAwaiting_eq under request]
  · have due := (fence p s e).2 ⟨under, state, kind, past⟩
    refine ⟨_, drainFenceExpiry_due due, ?_⟩
    rw [timeoutNotice_eq, if_pos kind]
    exact coolEntry_reported ..
  · exact ⟨_, orphanedExpiry_due ((orphan tag s e).2 ⟨under, state, past⟩), coolEntry_reported ..⟩
  · refine entryExpiry_early (Option.eq_none_iff_forall_ne_some.2 fun e due => ?_)
    obtain ⟨under, state, request, past⟩ := (awaiting tag s e).1 due
    exact early e under state request past
  · refine orphanedExpiry_early (Option.eq_none_iff_forall_ne_some.2 fun e due => ?_)
    obtain ⟨under, state, past⟩ := (orphan tag s e).1 due
    exact early e under state past
  · refine drainFenceExpiry_early (Option.eq_none_iff_forall_ne_some.2 fun e due => ?_)
    obtain ⟨under, state, kind, past⟩ := (fence p s e).1 due
    exact early e under state kind past

/-! ### The end of a cooling period (R46) -/

/-- The tag of a cooling period that ends joins the pool when it is a traffic tag, and goes idle otherwise. -/
theorem endCooling_eq (tag : Tag) (s : State) : endCooling tag s =
    let left := s.tracker.cooling.filter fun k => k.tag ≠ tag
    if tag.toNat ≤ 125 then resourceFreed .tag { s with tracker :=
      { s.tracker with cooling := left, free := s.tracker.free ++ [tag] } }
    else { s with tracker := { s.tracker with cooling := left } } := by
  unfold endCooling
  rw [isTrafficTag_eq]
  by_cases traffic : tag.toNat ≤ 125
  · simp only [traffic, decide_true, if_true]; rfl
  · simp only [traffic, decide_false, Bool.false_eq_true, if_false]; rfl

/-- Settles O30: the expiry frees the tag when it is due, and is due when its release time is reached. -/
theorem coolingEnds : Obligations.CoolingEnds := by
  have due (tag : Tag) (s : State) := dueCooling_iff (reached_iff s.timebase) tag
  refine ⟨fun tag s early => ?_, fun tag s m cools is past => ?_⟩
  · refine congrArg _ (if_neg fun now => ?_)
    obtain ⟨m, cools, is, past⟩ := (due tag s).1 now
    exact early m cools is past
  · have ended : exec (.coolingExpiry tag) s = .next (endCooling tag s) :=
      congrArg _ (if_pos ((due tag s).2 ⟨m, cools, is, past⟩))
    intro left
    rw [ended, endCooling_eq]
    exact ⟨fun traffic => congrArg _ (if_pos traffic), fun fence => congrArg _ (if_neg (by omega))⟩

/-! ### The take of a restored reply (R54) -/

/-- A reply matches an AWAITING entry when it is under the reply's tag and left by the port. -/
theorem matchReply_awaiting {p : Port} {reply : Packet} {s : State} {e : TrackEntry} :
    matchReply p reply s.tracker = some e ∧ e.state = .awaiting ↔
      entryUnder reply.tag s = some e ∧ e.egress = p ∧ e.state = .awaiting := by
  constructor
  · rintro ⟨found, awaiting⟩
    unfold matchReply at found
    split at found
    · cases found
    · next k under =>
      split at found <;> cases found
      next same => exact ⟨under, same.1, awaiting⟩
  · rintro ⟨under, egress, awaiting⟩
    exact ⟨matchReply_of_open under egress (.inl awaiting), awaiting⟩

theorem replyTake_waits {p : Port} {s : State} {reply : Packet} {e : TrackEntry}
    (waits : WaitsWith p .c (.take e) reply s) :
    exec (.replyTake p) s = .next (takeReply p reply e s) := by
  simp only [exec, execReplyTake]
  rw [waits_work waits, waits_head waits]

/-- The reply that the origin receives: the arriving one under the origin's unit and tag, or a
PARTNER_ERROR (R52, R53). -/
theorem restoredReply_eq (e : TrackEntry) (o : Origin) (source : UnitNo) (reply : Packet) :
    (FitsEntry e reply → restoredReply e o source reply = ⟨.reply, source, o.unit, o.tag, reply.length,
      reply.status, reply.address, reply.payload⟩) ∧
    (¬FitsEntry e reply → restoredReply e o source reply =
      shortReply source o.unit o.tag .partnerError) := by
  rw [← replyFits_iff, shortReply_eq]
  exact ⟨fun fits => if_pos fits, fun misfit => if_neg misfit⟩

section Take

variable {p : Port} {reply : Packet} {s : State} {e : TrackEntry} {o : Origin}

theorem takeReply_changed
    (changed : ¬(entryUnder reply.tag s = some e ∧ e.egress = p ∧ e.state = .awaiting)) :
    takeReply p reply e s = headDropped p .c [] s :=
  if_neg fun same => changed (matchReply_awaiting.1 same)

/-- With the entry as it was presented, the origin's C transmit queue decides. -/
theorem takeReply_current
    (current : entryUnder reply.tag s = some e ∧ e.egress = p ∧ e.state = .awaiting)
    (origin : e.origin = some o) :
    (TakesOffer o.port .c s → takeReply p reply e s = headLeft p .c
      (reportRemovals [⟨e, .replied⟩]
        (if replyFits e reply = true then [] else [partnerErrorNotice e reply])
        (releaseEntry e (queued o.port .c (restoredReply e o (s.unit o.port) reply) s)))) ∧
    (¬TakesOffer o.port .c s →
      takeReply p reply e s = headDropped p .c [.transmit o.port .c] s) := by
  rw [takesOffer_iff, ← finishHead_eq, ← enqueue_eq, ← dropHead_eq]
  unfold takeReply
  rw [if_pos (matchReply_awaiting.2 current), origin]
  exact ⟨fun room => if_pos room, fun full => if_neg full⟩

end Take

/-- Settles O27: the take looks at the entry again, and then at the space at the origin. -/
theorem restoredReplyIsTaken : Obligations.RestoredReplyIsTaken := by
  intro p s reply e waits
  rw [replyTake_waits waits]
  refine ⟨fun o under egress awaiting origin => ?_, fun changed => congrArg _ (takeReply_changed changed)⟩
  obtain ⟨takes, drops⟩ := takeReply_current ⟨under, egress, awaiting⟩ origin
  refine ⟨fun room => ?_, fun full => congrArg _ (drops full)⟩
  obtain ⟨restored, misfit⟩ := restoredReply_eq e o (s.unit o.port) reply
  obtain ⟨t, notices, fits, errs, ended, reported⟩ :=
    entryEnded_reported e .replied reply (replyFits e reply = true)
      (queued o.port .c (restoredReply e o (s.unit o.port) reply) s)
  rw [replyFits_iff] at fits errs
  rw [takes room, ended]
  exact ⟨t, notices, _, fun fit => ⟨fits fit, restored fit⟩, fun no => ⟨errs no, misfit no⟩, rfl,
    reported⟩

end Sys2Proof
end

section
/-! PROOFS. FORCE_DRAIN: the entries it acts on, the reports of those it removes, and the end of the drain (R67,
R102). -/

namespace Sys2Proof

open Machine

/-- The entries that FORCE_DRAIN removes to the cooling set (R67). -/
abbrev ForceRemoved (gen : Gen) (e : TrackEntry) : Prop :=
  e.generation = gen ∧ (e.state = .orphaned ∨ e.state = .awaiting ∧ e.kind = .drainFence)

theorem forceFate_eq (gen : Gen) (event : Nat) (e : TrackEntry) : forceFate gen event e =
    if ForceRemoved gen e then .cool .aborted
    else .stay (if e.generation = gen ∧ e.state = .awaiting then
      { e with state := .closing .aborted event } else e) := by
  unfold forceFate ForceRemoved
  by_cases drained : e.generation = gen
  · cases state : e.state with
    | awaiting => by_cases fence : e.kind = .drainFence <;> simp [drained, TrackEntry.close, fence]
    | orphaned => simp [drained]
    | closing status k => simp [drained]
  · simp [drained]

/-- The removals of an event that removes some entries with one cause. -/
theorem removals_eq {fate : TrackEntry → Fate} {gone : TrackEntry → Prop} [DecidablePred gone]
    {cause : Cause} {f : TrackEntry → TrackEntry}
    (fates : ∀ e, fate e = if gone e then .cool cause else .stay (f e)) (entries : List TrackEntry) :
    removals fate entries = (entries.filter fun e => gone e).map fun e => ⟨e, cause⟩ := by
  induction entries with
  | nil => rfl
  | cons e l ih =>
    unfold removals at ih ⊢
    rw [List.filterMap_cons, fates e]
    by_cases out : gone e <;> simp [out, ih]

/-- The reports of entries that FORCE_DRAIN removes, folded into the Commit Status (R97, R98). -/
theorem foldl_takeReport_aborted (removed : List TrackEntry) (c : Commit) :
    (removed.map fun e => (⟨e, .aborted⟩ : Removal)).foldl Commit.takeReport c = { c with
      late := { c.late with aborted := c.late.aborted || decide (removed ≠ []) }
      fences := removed.foldl (fun fences e =>
        if e.kind = .drainFence then fences.set e.egress .aborted else fences) c.fences } := by
  induction removed generalizing c with
  | nil => simp
  | cons e l ih =>
    rw [List.map_cons, List.foldl_cons, ih]
    simp [Commit.takeReport, LateCauses.add, Cause.fenceState]

/-- FORCE_DRAIN with its answer still to come: the tracker and the Commit Status after it, and the
notice of the drain that it ends. -/
theorem forceDrain_eq {s : State} (draining : s.commit.state = .draining) :
    let fate := forceFate s.commit.drainGeneration s.events
    let t := s.tracker.settle s.timebase fate
    let commit := drainEnded s.timebase t.entries
      ((removals fate s.tracker.entries).foldl Commit.takeReport { s.commit with forced := true })
    forceDrain s = maybeNoticed (if commit.state = .idle then some (commitDoneFor commit) else none)
      { s with tracker := t, commit := commit, events := s.events + 1 } := by
  intro fate t commit
  obtain ⟨state, -⟩ := foldl_takeReport (removals fate s.tracker.entries) { s.commit with forced := true }
  unfold forceDrain
  dsimp only
  rw [settleDrain_eq _ (state.trans draining) rfl]
  dsimp only
  rw [drainEnded_remaining]
  change raiseList (if commit.state = .idle then [commitDoneFor commit] else [])
    { s with tracker := t, commit := commit, events := s.events + 1 } = _
  split <;> rfl

theorem maybeNoticed_commit (notice : Option NoticeReq) (s : State) :
    (maybeNoticed notice s).commit = s.commit := by
  cases notice <;> rfl

/-- Settles O43: FORCE_DRAIN outside a drain is refused, and during one acts on the entries of the drain. -/
theorem drainIsForced : Obligations.DrainIsForced := by
  intro s slot rest takes
  refine ⟨fun idle => ?_, fun draining => ?_⟩
  · have refused : runForceDrain s = (refusal .notDraining, s) := if_neg (by rw [idle]; nofun)
    exact congrArg _ (takeCommand_eq takes refused rfl)
  intro gone kept removed commit t
  have fates := forceFate_eq s.commit.drainGeneration s.events
  have forced : forceDrain s = maybeNoticed
      (if commit.state = .idle then some (commitDoneFor commit) else none) t := by
    rw [forceDrain_eq draining]
    dsimp only
    rw [settle_eq fates, removals_eq fates, foldl_takeReport_aborted]
  have count : (forceDrain s).commit = commit := by rw [forced, maybeNoticed_commit]
  have ran : runForceDrain s = (⟨.done, BitVec.ofNat 32 commit.remaining⟩, forceDrain s) := by
    rw [← count]
    exact if_pos draining
  rw [← forced]
  exact congrArg _ (takeCommand_eq takes ran (by rw [forceDrain_mgmt]))

end Sys2Proof
end

section
/-! PROOFS. The expiries that the timebase takes when no command waits, that every step goes on, and that the
laws of the part hold after a cold reset. -/

namespace Sys2Proof

open Machine

/-! ### The expiries of every deadline -/

/-- A tag under which an entry stands is among the tags of the entries. -/
theorem tag_mem_of_under {tag : Tag} {s : State} {e : TrackEntry} (under : entryUnder tag s = some e) :
    tag ∈ s.tracker.entries.map (·.tag) :=
  List.mem_map.2 ⟨e, tracker_find_spec under⟩

section Due

variable {test : Time → Time → Bool} {past : Time → Prop} {s : State}
  (agree : ∀ d, test s.timebase d = true ↔ past d)

include agree

theorem dueAttempt_isSome (p : Port) : (dueAttempt test p s).isSome = true ↔
    ExpiryOf past s (.attemptDeadlineExpiry p) := by
  rw [Option.isSome_iff_exists]
  exact exists_congr fun a => dueAttempt_iff agree p a

theorem dueFence_isSome (p : Port) : (dueFence test p s).isSome = true ↔
    ExpiryOf past s (.drainFenceExpiry p) := by
  rw [Option.isSome_iff_exists]
  exact exists_congr fun e => dueFence_iff agree p e

theorem dueAwaiting_isSome (tag : Tag) :
    tag ∈ s.tracker.entries.map (·.tag) ∧ (dueAwaiting test tag s).isSome = true ↔
      ExpiryOf past s (.entryExpiry tag) := by
  rw [Option.isSome_iff_exists]
  simp only [dueAwaiting_iff agree]
  exact ⟨And.right, fun ⟨e, under, due⟩ => ⟨tag_mem_of_under under, e, under, due⟩⟩

theorem dueOrphan_isSome (tag : Tag) :
    tag ∈ s.tracker.entries.map (·.tag) ∧ (dueOrphan test tag s).isSome = true ↔
      ExpiryOf past s (.orphanedExpiry tag) := by
  rw [Option.isSome_iff_exists]
  simp only [dueOrphan_iff agree]
  exact ⟨And.right, fun ⟨e, under, due⟩ => ⟨tag_mem_of_under under, e, under, due⟩⟩

theorem dueCooling_mem (tag : Tag) :
    tag ∈ s.tracker.cooling.map (·.tag) ∧ dueCooling test tag s = true ↔
      ExpiryOf past s (.coolingExpiry tag) := by
  rw [dueCooling_iff agree]
  exact ⟨And.right, fun ⟨m, cools, is, due⟩ => ⟨List.mem_map.2 ⟨m, cools, is⟩, m, cools, is, due⟩⟩

theorem dueHeld_isSome (id : HoldId) :
    id ∈ s.hold.slots.map (·.id) ∧ (dueHeld test id s).isSome = true ↔
      ExpiryOf past s (.holdExpiry id) := by
  have due : (dueHeld test id s).isSome = true ↔ ExpiryOf past s (.holdExpiry id) := by
    rw [Option.isSome_iff_exists]
    refine exists_congr fun h => (dueHeld_iff agree id h).trans ?_
    exact ⟨fun ⟨under, d, rest⟩ => ⟨d, under, rest⟩, fun ⟨d, under, rest⟩ => ⟨under, d, rest⟩⟩
  rw [due]
  refine ⟨And.right, fun expires => ⟨?_, expires⟩⟩
  obtain ⟨h, _, under, -⟩ := expires
  have is := List.find?_some under
  simp only [Bool.and_eq_true, decide_eq_true_eq] at is
  exact List.mem_map.2 ⟨h, List.mem_of_find?_eq_some under, is.1⟩

/-- The expiries that are due by a test are those whose deadline passes it. -/
theorem mem_dueExpiries (c : Instr) : c ∈ dueExpiries test s ↔ ExpiryOf past s c := by
  have ack (p : Port) : dueAck test p s = true ↔ ExpiryOf past s (.ackDeadlineExpiry p) :=
    dueAck_iff agree p
  have holdOff : dueHoldOff test s = true ↔ ExpiryOf past s .holdOffExpiry := dueHoldOff_iff agree
  unfold dueExpiries duePortExpiries
  simp only [List.mem_append, List.mem_ite_nil_right, List.mem_singleton, List.mem_map (α := Tag),
    List.mem_map (α := HoldId), List.mem_filter, dueAttempt_isSome agree, dueFence_isSome agree,
    ack, holdOff, dueAwaiting_isSome agree, dueOrphan_isSome agree, dueCooling_mem agree,
    dueHeld_isSome agree]
  constructor
  · rintro (((((((((⟨due, rfl⟩ | ⟨due, rfl⟩) | ⟨due, rfl⟩) | (⟨due, rfl⟩ | ⟨due, rfl⟩) | ⟨due, rfl⟩)) |
      ⟨due, rfl⟩) | ⟨tag, due, rfl⟩) | ⟨tag, due, rfl⟩) | ⟨tag, due, rfl⟩) | ⟨id, due, rfl⟩)
    all_goals exact due
  · intro due
    cases c
    case attemptDeadlineExpiry p => cases p <;> simp [due]
    case ackDeadlineExpiry p => cases p <;> simp [due]
    case drainFenceExpiry p => cases p <;> simp [due]
    case holdOffExpiry => simp [due]
    case entryExpiry tag => simp [due]
    case orphanedExpiry tag => simp [due]
    case coolingExpiry tag => simp [due]
    case holdExpiry id => simp [due]
    all_goals exact due.elim

end Due

/-! ### Every step goes on -/

theorem exec_goesOn (c : Instr) (s : State) : ∃ t, exec c s = .next t := by
  cases c <;> exact ⟨_, rfl⟩

theorem tick_goesOn (s : State) : ∃ t, tick s = .next t := by
  unfold tick
  split
  · exact ⟨_, rfl⟩
  · exact exec_goesOn _ s

theorem step_of_empty {s : State} (empty : s.pending = []) : step s = tick s := by
  unfold step
  rw [empty]

/-- Settles O2: every command and the timebase answer a next state, and what is due at the limit is an expiry
at its limit. -/
theorem everyStepGoesOn : Obligations.EveryStepGoesOn := by
  refine ⟨fun s => ?_, fun s c => mem_dueExpiries (atLimit_iff s.timebase) c, fun s empty => ?_⟩
  · unfold GoesOn step
    split
    · exact tick_goesOn s
    · exact exec_goesOn _ _
  · rw [step_of_empty empty]
    unfold tick
    exact ⟨fun none => by rw [none], fun c cs due => by rw [due]⟩

/-! ### The laws after a cold reset -/

theorem portLaws_cold (p : Port) : PortLaws p LinkPort.cold where
  ingress_size := fun ch => by cases ch <;> exact Nat.zero_le _
  transmit_size := fun ch => by cases ch <;> exact Nat.zero_le _
  store_size := Nat.zero_le _
  ingress_stamps := fun ch => by cases ch <;> exact ⟨.nil, fun _ mem => absurd mem List.not_mem_nil⟩
  transmit_stamps := fun ch => by cases ch <;> exact ⟨.nil, fun _ mem => absurd mem List.not_mem_nil⟩
  fence_stamp := nofun
  attempt_new := ⟨nofun, fun ⟨_, is, _⟩ => nomatch is⟩
  attempt_resume := ⟨nofun, fun ⟨_, is, _⟩ => nomatch is⟩
  attempts_bound := ⟨Nat.zero_le _, fun _ => Nat.zero_le _⟩
  down_empty := fun _ => ⟨rfl, rfl, rfl, rfl, rfl⟩
  rounds_bound := Nat.zero_le _
  deadline := nofun
  replay_held := fun _ mem => absurd mem List.not_mem_nil
  hold_off := ⟨fun held => absurd rfl held, fun ⟨_, is⟩ => nomatch is⟩

theorem queueLaws_reset : QueueLaws State.reset where
  hold_size := Nat.zero_le _
  hold_ids := ⟨.nil, fun _ mem => absurd mem List.not_mem_nil⟩
  command_size := Nat.zero_le _
  command_states := fun _ mem => absurd mem List.not_mem_nil
  release_head := fun _ is => by cases is
  head_release := fun _ is => by cases is
  notice_size := ⟨Nat.zero_le _, Nat.zero_le _⟩
  notice_numbers := fun i _ is => absurd (List.getElem?_nil.symm.trans is) nofun
  managers := by decide
  aperture := ⟨by decide, fun _ is => by cases is⟩

/-- Settles O55: every queue is empty, every tag in the pool, and every port OFFLINE. -/
theorem lawsHoldAtReset : Obligations.LawsHoldAtReset :=
  ⟨(trackerLaws_iff _).2 ledger_reset_lawful, (listLaws_iff _).2 settings_reset_lawful,
    fun p => by cases p <;> exact portLaws_cold _, queueLaws_reset⟩

end Sys2Proof
end

section
/-! PROOFS. The queues: the part of the state that the laws of the Hold Queue, the command queue and the
notice queue speak of, and what one change of it keeps. -/

namespace Sys2Proof

open Machine

/-! ### The part of the state that the laws speak of -/

/-- The ids in use, whether a release is in progress and delivers, the states of the command queue, the Notice
Unit, the manager set, and the aperture base with its pending move. -/
structure Queues where
  ids : List HoldId
  delivers : Option Bool
  commands : List SlotState
  notices : NoticeUnit
  managers : UnitSet
  base : Addr
  pendingBase : Option Addr

/-- The queues of a state. -/
def queues (s : State) : Queues where
  ids := s.hold.slots.map (·.id)
  delivers := s.hold.release.map (·.delivers)
  commands := s.mgmt.queue.map (·.state)
  notices := s.notices
  managers := s.mgmt.managers
  base := s.mgmt.apertureBase
  pendingBase := s.mgmt.pendingBase

/-- The laws of the hold ids in use (R70, R72). -/
structure IdsLawful (ids : List HoldId) : Prop where
  size : ids.length ≤ 8
  nodup : ids.Nodup
  nonzero : ∀ id ∈ ids, id ≠ 0

/-- The laws of the notice queue (R131, R132). -/
structure NoticesLawful (n : NoticeUnit) : Prop where
  size : n.queue.length ≤ 32
  dropped : n.dropped ≤ 255
  numbers : ∀ i k, n.queue[i]? = some k →
    k.seq = n.nextSeq - BitVec.ofNat 16 (n.queue.length - i) ∧ k.droppedBefore ≤ 255

/-- Whether a command queue slot has a RELEASE to wait for: it is EXECUTING, alone or as a batch. -/
def Executes (st : SlotState) : Prop :=
  st = .executing ∨ ∃ run, st = .executingBatch run

/-- The laws of the command queue and the release that its head executes (R77, R79, R116). -/
structure CommandsLawful (delivers : Option Bool) (commands : List SlotState) : Prop where
  size : commands.length ≤ 4
  behind : ∀ st ∈ commands.tail, st = .waiting ∨ st = .aborting
  released : delivers = some true → ∃ st ∈ commands.head?, Executes st
  executing : commands.head? = some .executing → delivers = some true

/-- Whether an address is a multiple of 64 KiB (R108). -/
def Aligned (base : Addr) : Prop := base.toNat % 0x10000 = 0

/-- The laws of the queues, of the queues alone. -/
structure Queues.Lawful (q : Queues) : Prop where
  ids : IdsLawful q.ids
  commands : CommandsLawful q.delivers q.commands
  notices : NoticesLawful q.notices
  managers : q.managers ≠ 0
  base : Aligned q.base
  pendingBase : ∀ base ∈ q.pendingBase, Aligned base

theorem queueLaws_iff (s : State) : QueueLaws s ↔ (queues s).Lawful := by
  constructor
  · rintro ⟨size, ⟨nodup, nonzero⟩, queueSize, behind, released, executing, ⟨noticeSize, dropped⟩,
      numbers, managers, base, pending⟩
    exact {
      ids := ⟨by simpa [queues] using size, nodup, by simpa [queues] using nonzero⟩
      commands := {
        size := by simpa [queues] using queueSize
        behind := by simpa [queues, ← List.map_tail] using behind
        released := fun delivers => by
          obtain ⟨r, inProgress, delivers⟩ := Option.map_eq_some_iff.1 delivers
          obtain ⟨k, head, executes⟩ := released r inProgress delivers
          exact ⟨k.state, by simp [queues, head], executes⟩
        executing := fun head => by
          obtain ⟨k, head, executes⟩ := Option.map_eq_some_iff.1 (List.head?_map.symm.trans head)
          obtain ⟨r, inProgress, delivers⟩ := executing k head executes
          simp [queues, inProgress, delivers] }
      notices := ⟨noticeSize, dropped, numbers⟩
      managers := managers
      base := base
      pendingBase := pending }
  · rintro ⟨⟨size, nodup, nonzero⟩, ⟨queueSize, behind, released, executing⟩,
      ⟨noticeSize, dropped, numbers⟩, managers, base, pending⟩
    exact {
      hold_size := by simpa [queues] using size
      hold_ids := ⟨nodup, by simpa [queues] using nonzero⟩
      command_size := by simpa [queues] using queueSize
      command_states := by simpa [queues, ← List.map_tail] using behind
      release_head := fun r inProgress delivers => by
        obtain ⟨st, head, executes⟩ := released (by simp [queues, inProgress, delivers])
        obtain ⟨k, first, rfl⟩ := Option.map_eq_some_iff.1 (List.head?_map.symm.trans head)
        exact ⟨k, first, executes⟩
      head_release := fun k head executes =>
        Option.map_eq_some_iff.1 (executing (by simp [queues, head, executes]))
      notice_size := ⟨noticeSize, dropped⟩
      notice_numbers := numbers
      managers := managers
      aperture := ⟨base, pending⟩ }

/-! ### Hold ids -/

/-- Slots that are freed leave the other ids in use (R73). -/
theorem IdsLawful.sublist {ids rest : List HoldId} (lawful : IdsLawful ids) (sub : rest.Sublist ids) :
    IdsLawful rest where
  size := sub.length_le.trans lawful.size
  nodup := lawful.nodup.sublist sub
  nonzero := fun id mem => lawful.nonzero id (sub.subset mem)

/-- A request enters a free slot under an id that no occupied slot carries (R72, R73). -/
theorem IdsLawful.enter {h : HoldQueue} (lawful : IdsLawful (h.slots.map (·.id)))
    (room : h.slots.length < 8) : IdsLawful (h.slots.map (·.id) ++ [h.nextId]) := by
  obtain ⟨k, -, is, new, -⟩ := nextId_spec h room
  have nonzero : h.nextId ≠ 0 := by
    rw [is]
    intro zero
    have number := congrArg BitVec.toNat zero
    simp only [HoldQueue.idAfter, BitVec.toNat_ofNat, BitVec.ofNat_eq_ofNat] at number
    omega
  constructor
  · simpa using room
  · rw [← List.concat_eq_append, List.nodup_concat]
    refine ⟨fun mem => ?_, lawful.nodup⟩
    obtain ⟨slot, stands, same⟩ := List.mem_map.1 mem
    exact new slot stands (same.trans is)
  · simp only [List.mem_append, List.mem_singleton]
    rintro id (mem | rfl)
    · exact lawful.nonzero id mem
    · exact nonzero

/-! ### Notices -/

theorem seq_of_next (next : BitVec 16) (n : Nat) :
    next + 1 - BitVec.ofNat 16 (n + 1) = next - BitVec.ofNat 16 n := by
  rw [BitVec.ofNat_add]
  bv_omega

/-- A notice is accepted with the next sequence number, or dropped and counted (R131, R132). -/
theorem NoticesLawful.take {n : NoticeUnit} (lawful : NoticesLawful n) (now : Time) (r : NoticeReq) :
    NoticesLawful (n.take now r) := by
  unfold NoticeUnit.take
  split
  · next room =>
    refine ⟨?_, Nat.zero_le _, fun i k here => ?_⟩
    · rw [List.length_append]
      exact room
    · rw [List.getElem?_append] at here
      rw [List.length_append, List.length_singleton]
      split at here
      · next older =>
        obtain ⟨number, before⟩ := lawful.numbers i k here
        rw [Nat.sub_add_comm older.le, seq_of_next]
        exact ⟨number, before⟩
      · next newest =>
        obtain ⟨inside, rfl⟩ := List.getElem?_eq_some_iff.1 here
        have last : i = n.queue.length := by
          rw [List.length_singleton] at inside
          omega
        subst last
        exact ⟨by simp, by simpa using lawful.dropped⟩
  · exact ⟨lawful.size, Nat.min_le_right _ _, lawful.numbers⟩

theorem NoticesLawful.foldl_take {n : NoticeUnit} (lawful : NoticesLawful n) (now : Time)
    (rs : List NoticeReq) : NoticesLawful (rs.foldl (fun n r => n.take now r) n) := by
  induction rs generalizing n with
  | nil => exact lawful
  | cons r rs ih => exact ih (lawful.take now r)

/-- The oldest notice leaves the queue (R133). -/
theorem NoticesLawful.pop {n : NoticeUnit} (lawful : NoticesLawful n) :
    NoticesLawful { n with queue := n.queue.tail } := by
  refine ⟨?_, lawful.dropped, fun i k here => ?_⟩
  · exact (List.length_tail ▸ Nat.sub_le _ _).trans lawful.size
  · rw [List.getElem?_tail] at here
    obtain ⟨number, before⟩ := lawful.numbers (i + 1) k here
    refine ⟨?_, before⟩
    rw [number, List.length_tail, Nat.sub_sub, Nat.add_comm 1 i]

/-! ### The command queue and the release that its head executes -/

section Commands

variable {delivers : Option Bool} {commands : List SlotState} {st : SlotState}

/-- An access waits behind the others (R116). -/
theorem CommandsLawful.arrive (lawful : CommandsLawful delivers commands)
    (room : commands.length < 4) : CommandsLawful delivers (commands ++ [.waiting]) := by
  cases commands with
  | nil =>
    refine ⟨Nat.le_of_ble_eq_true rfl, nofun, fun delivers => ?_, nofun⟩
    obtain ⟨st, head, -⟩ := lawful.released delivers
    cases head
  | cons first rest =>
    refine ⟨by simpa using room, fun st mem => ?_, lawful.released, lawful.executing⟩
    rcases List.mem_append.1 mem with mem | mem
    · exact lawful.behind st mem
    · exact .inl (List.mem_singleton.1 mem)

/-- The head changes its state while no release has a result for it, or as that release ends. -/
theorem CommandsLawful.setHead (lawful : CommandsLawful delivers commands) {now : Option Bool}
    (quiet : now ≠ some true) (other : st ≠ .executing) :
    CommandsLawful now (commands.modifyHead fun _ => st) where
  size := (List.length_modifyHead ..).trans_le lawful.size
  behind := by rw [List.tail_modifyHead]; exact lawful.behind
  released := fun delivers => absurd delivers quiet
  executing := fun head => by
    cases commands <;> cases head
    exact absurd rfl other

/-- A release begins, and the head waits for its result (R77). -/
theorem CommandsLawful.begin (lawful : CommandsLawful delivers commands) (head : commands ≠ [])
    (executes : Executes st) : CommandsLawful (some true) (commands.modifyHead fun _ => st) where
  size := (List.length_modifyHead ..).trans_le lawful.size
  behind := by rw [List.tail_modifyHead]; exact lawful.behind
  released := fun _ => by
    cases commands with
    | nil => exact absurd rfl head
    | cons first rest => exact ⟨st, rfl, executes⟩
  executing := fun _ => rfl

/-- A release ends that has no result for the head. -/
theorem CommandsLawful.ended (lawful : CommandsLawful delivers commands)
    (other : commands.head? ≠ some .executing) : CommandsLawful none commands :=
  { lawful with released := nofun, executing := fun head => absurd head other }

/-- The head leaves, unless a release has a result for it (R116). -/
theorem CommandsLawful.pop (lawful : CommandsLawful delivers commands)
    (head : commands.head? = some st) (idle : ¬Executes st) :
    CommandsLawful delivers commands.tail where
  size := (List.length_tail ▸ Nat.sub_le _ _).trans lawful.size
  behind := fun st mem => lawful.behind st (List.mem_of_mem_tail mem)
  released := fun delivers => by
    obtain ⟨k, is, executes⟩ := lawful.released delivers
    cases head.symm.trans is
    exact absurd executes idle
  executing := fun next => by
    rcases lawful.behind _ (List.mem_of_head? next) with is | is <;> cases is

/-- A port-down of U empties the queue, and a release that goes on has no command to answer (R79, R118). -/
theorem commandsLawful_cut : CommandsLawful (delivers.map fun _ => false) [] where
  size := Nat.zero_le _
  behind := nofun
  released := fun cut => by cases delivers <;> cases cut
  executing := nofun

/-- The warm reset turns every access ABORTING (R128). -/
theorem CommandsLawful.abort (lawful : CommandsLawful delivers commands)
    (quiet : delivers ≠ some true) :
    CommandsLawful delivers (commands.map fun _ => .aborting) where
  size := (List.length_map ..).trans_le lawful.size
  behind := fun st mem => by
    obtain ⟨_, -, rfl⟩ := List.mem_map.1 (List.mem_of_mem_tail mem)
    exact .inr rfl
  released := fun delivers => absurd delivers quiet
  executing := fun head => by cases commands <;> cases head

end Commands

end Sys2Proof
end

section
/-! PROOFS. What the operations that blocks share make of the queues: most leave them alone or raise notices,
and each change keeps the laws. -/

namespace Sys2Proof

open Machine

/-! ### Operations that leave the queues alone -/

theorem queues_congr {s t : State} (hold : t.hold = s.hold) (mgmt : t.mgmt = s.mgmt)
    (notices : t.notices = s.notices) : queues t = queues s := by
  unfold queues; rw [hold, mgmt, notices]

section Frames

variable (s : State)

@[simp] theorem queues_setPort (p : Port) (lp : LinkPort) : queues (s.setPort p lp) = queues s :=
  queues_congr rfl rfl rfl
@[simp] theorem queues_setDispatcher (p : Port) (d : Dispatcher) :
    queues (s.setDispatcher p d) = queues s :=
  queues_congr rfl rfl rfl
@[simp] theorem queues_setTracker (t : Tracker) : queues (setTracker t s) = queues s :=
  queues_congr rfl rfl rfl
@[simp] theorem queues_clearMarks (r : Resource) : queues (clearMarks r s) = queues s :=
  queues_congr rfl rfl rfl
@[simp] theorem queues_clearAllMarks : queues (clearAllMarks s) = queues s :=
  queues_congr rfl rfl rfl
@[simp] theorem queues_enqueue (p : Port) (ch : Chan) (pkt : Packet) :
    queues (enqueue p ch pkt s) = queues s :=
  queues_congr rfl rfl rfl
@[simp] theorem queues_setWork (p : Port) (w : Work) : queues (setWork p w s) = queues s :=
  queues_congr rfl rfl rfl
@[simp] theorem queues_finishHead (p : Port) (ch : Chan) :
    queues (finishHead p ch s) = queues s :=
  queues_congr rfl rfl rfl
@[simp] theorem queues_dropHead (p : Port) (ch : Chan) (lacking : List Resource) :
    queues (dropHead p ch lacking s) = queues s :=
  queues_congr rfl rfl rfl
@[simp] theorem queues_allocateEntry (e : TrackEntry) : queues (allocateEntry e s) = queues s :=
  queues_congr rfl rfl rfl

@[simp] theorem queues_releaseEntry (e : TrackEntry) : queues (releaseEntry e s) = queues s :=
  queues_congr (by simp) (by simp) (by simp)

@[simp] theorem queues_takeReports (rs : List Removal) : queues (takeReports rs s).1 = queues s :=
  queues_congr (by simp) (by simp) (by simp)

@[simp] theorem queues_withdraw (e : TrackEntry) : queues (withdraw e s).1 = queues s :=
  queues_takeReports ..

@[simp] theorem queues_trackerPortDown (p : Port) : queues (trackerPortDown p s).1 = queues s :=
  queues_congr (by simp) (by simp) (by simp)

@[simp] theorem queues_reportCompletion (party : Party) (dec : Decision) :
    queues (reportCompletion party dec s) = queues s := by
  unfold reportCompletion
  split
  · rfl
  · cases party <;> rfl

/-- A release in progress that goes on to another step delivers as before. -/
theorem queues_setPhase {r : Release} (inProgress : s.hold.release = some r) (phase : ReleasePhase) :
    queues (setPhase r phase s) = queues s := by
  unfold queues setPhase
  rw [inProgress]
  rfl

theorem queues_setHeadState (st : SlotState) : queues (setHeadState st s) =
    { queues s with commands := (queues s).commands.modifyHead fun _ => st } := by
  rw [setHeadState_form]
  unfold queues
  cases s.mgmt.queue <;> rfl

end Frames

/-! ### The end of a release -/

/-- A release that ends changes the state of the head, or leaves a head that did not execute it. -/
theorem endRelease_cases (r : Result) (s : State) :
    let t := setHold { s.hold with release := none } s
    (∃ st, st ≠ .executing ∧ endRelease r s = setHeadState st t) ∨
      endRelease r s = t ∧
        ((queues s).delivers = some true → (queues s).commands.head? ≠ some .executing) := by
  have delivers : (queues s).delivers = some true ↔ (s.hold.release.any (·.delivers)) = true := by
    cases inProgress : s.hold.release <;> simp [queues, inProgress]
  rw [delivers]
  unfold endRelease
  dsimp only
  split
  · rw [setHold_mgmt]
    split
    · next empty => exact .inr ⟨rfl, fun _ => by simp [queues, empty]⟩
    · next slot rest queue =>
      split
      · exact .inl ⟨_, by nofun, rfl⟩
      · split
        · split
          · exact .inl ⟨_, by nofun, rfl⟩
          · exact .inl ⟨_, by nofun, rfl⟩
        · exact .inl ⟨_, by nofun, rfl⟩
      · next other _ => exact .inr ⟨rfl, fun _ => by simpa [queues, queue] using other⟩
  · next cut => exact .inr ⟨rfl, fun delivers => absurd delivers cut⟩

/-! ### Notices -/

section Events

variable {s : State} (lawful : (queues s).Lawful)

include lawful

theorem queuesLawful_notices {n : NoticeUnit} (kept : NoticesLawful n) :
    ({ queues s with notices := n } : Queues).Lawful :=
  { lawful with notices := kept }

@[simp] theorem queuesLawful_raise (r : NoticeReq) : (queues (raise r s)).Lawful :=
  queuesLawful_notices lawful (lawful.notices.take _ r)

@[simp] theorem queuesLawful_raiseList (rs : List NoticeReq) : (queues (raiseList rs s)).Lawful := by
  rw [raiseList_eq]
  exact queuesLawful_notices lawful (lawful.notices.foldl_take _ rs)

@[simp] theorem queuesLawful_raiseTogether (bs : List (List NoticeReq)) :
    (queues (raiseTogether bs s)).Lawful := by
  obtain ⟨order, -, -, raised⟩ := raiseTogether_eq bs s
  rw [raised]
  exact queuesLawful_notices lawful (lawful.notices.foldl_take _ order)

@[simp] theorem queuesLawful_popNotice : (queues (popNotice s)).Lawful :=
  queuesLawful_notices lawful lawful.notices.pop

@[simp] theorem queuesLawful_reportRemovals (rs : List Removal) (ns : List NoticeReq) :
    (queues (reportRemovals rs ns s)).Lawful :=
  queuesLawful_raiseTogether ((queues_takeReports s rs).symm ▸ lawful) _

@[simp] theorem queuesLawful_coolEntry (e : TrackEntry) (cause : Cause) (ns : List NoticeReq) :
    (queues (coolEntry e cause ns s)).Lawful :=
  queuesLawful_reportRemovals (s := setTracker (s.tracker.cool s.timebase e) s) lawful _ ns

@[simp] theorem queuesLawful_handBack (e : TrackEntry) : (queues (handBack e s)).Lawful := by
  unfold handBack
  simp [lawful]

@[simp] theorem queuesLawful_complete (p : Port) (ch : Chan) (dec : Option Decision)
    (ns : List NoticeReq) : (queues (complete p ch dec ns s)).Lawful := by
  cases dec <;> simp [complete, lawful]

@[simp] theorem queuesLawful_enterTraining (p : Port) : (queues (enterTraining p s)).Lawful :=
  queuesLawful_notices lawful (lawful.notices.take _ _)

@[simp] theorem queuesLawful_enterRetraining (p : Port) : (queues (enterRetraining p s)).Lawful :=
  queuesLawful_notices lawful (lawful.notices.take _ _)

@[simp] theorem queuesLawful_enterUp (p : Port) (a : Attempt) : (queues (enterUp p a s)).Lawful :=
  queuesLawful_notices lawful (lawful.notices.take _ _)

/-! ### Slots of the Hold Queue -/

theorem queuesLawful_ids {ids : List HoldId} (kept : IdsLawful ids) :
    ({ queues s with ids := ids } : Queues).Lawful :=
  { lawful with ids := kept }

/-- Slots that leave the list leave the other ids in use. -/
theorem queuesLawful_filter (keep : HoldSlot → Bool) :
    (queues (setHold { s.hold with slots := s.hold.slots.filter keep } s)).Lawful :=
  queuesLawful_ids lawful (lawful.ids.sublist (List.filter_sublist.map _))

@[simp] theorem queuesLawful_freeSlot (id : HoldId) : (queues (freeSlot id s)).Lawful :=
  queuesLawful_filter lawful _

@[simp] theorem queuesLawful_refuseHeld (h : HoldSlot) (status : AnswerStatus) :
    (queues (refuseHeld h status s)).Lawful := by
  unfold refuseHeld
  split
  · exact queuesLawful_freeSlot lawful h.id
  · refine queuesLawful_ids (ids := List.map _ (List.map _ _)) lawful ?_
    have same : ((s.hold.answer h.id status s.events).slots.map (·.id)) = s.hold.slots.map (·.id) := by
      unfold HoldQueue.answer
      rw [List.map_map]
      refine List.map_congr_left fun k _ => ?_
      dsimp only [Function.comp_apply]
      split <;> rfl
    exact same ▸ lawful.ids

@[simp] theorem queuesLawful_expireHeld (h : HoldSlot) : (queues (expireHeld h s)).Lawful :=
  queuesLawful_refuseHeld (queuesLawful_raise lawful _) h _

@[simp] theorem queuesLawful_holdPortDown (p : Port) : (queues (holdPortDown p s).1).Lawful := by
  unfold holdPortDown
  dsimp only
  split
  · exact queuesLawful_filter lawful _
  · exact queuesLawful_filter lawful _

/-! ### The head of the command queue and the release in progress -/

theorem queuesLawful_commands {delivers : Option Bool} {commands : List SlotState}
    (kept : CommandsLawful delivers commands) :
    ({ queues s with delivers := delivers, commands := commands } : Queues).Lawful :=
  { lawful with commands := kept }

/-- The head changes its state while no release is in progress. -/
theorem queuesLawful_setHeadState (free : s.hold.release = none) {st : SlotState}
    (other : st ≠ .executing) : (queues (setHeadState st s)).Lawful := by
  rw [queues_setHeadState]
  refine queuesLawful_commands lawful (lawful.commands.setHead (now := (queues s).delivers) ?_ other)
  simp [queues, free]

theorem queuesLawful_answerHead (free : s.hold.release = none) (r : Result) (index : Nat) :
    (queues (answerHead r index s)).Lawful :=
  queuesLawful_setHeadState lawful free nofun

@[simp] theorem queuesLawful_endRelease (r : Result) : (queues (endRelease r s)).Lawful := by
  rcases endRelease_cases r s with ⟨st, other, ended⟩ | ⟨ended, idle⟩
  · rw [ended, queues_setHeadState]
    exact queuesLawful_commands lawful (lawful.commands.setHead nofun other)
  · rw [ended]
    refine queuesLawful_commands lawful (lawful.commands.ended fun executing => ?_)
    exact idle (lawful.commands.executing executing) executing

@[simp] theorem queuesLawful_endDone (dec : Option Decision) (r : Result) :
    (queues (endDone dec r s)).Lawful := by
  cases dec <;> simp [endDone, lawful]

@[simp] theorem queuesLawful_endRefused (h : HoldSlot) (status : AnswerStatus) (dec : Option Decision)
    (ns : List NoticeReq) (outcome : ReleaseOutcome) :
    (queues (endRefused h status dec ns outcome s)).Lawful :=
  queuesLawful_endDone (queuesLawful_raiseList (queuesLawful_refuseHeld lawful h status) ns) dec _

@[simp] theorem queuesLawful_endHeld (h : HoldSlot) (code : ResultCode) :
    (queues (endHeld h code s)).Lawful := by
  unfold endHeld
  dsimp only
  repeat' split
  all_goals simp [lawful]

@[simp] theorem queuesLawful_managementPortDown (p : Port) :
    (queues (managementPortDown p s)).Lawful := by
  unfold managementPortDown
  split
  · refine { lawful with commands := ?_, pendingBase := nofun }
    have cut : CommandsLawful ((queues s).delivers.map fun _ => false) [] := commandsLawful_cut
    simpa [queues, Function.comp_def] using cut
  · exact lawful

@[simp] theorem queuesLawful_releasePortDown (p : Port) :
    (queues (releasePortDown p s).1).Lawful := by
  unfold releasePortDown
  split
  · exact lawful
  · split
    · refine queuesLawful_endRelease ?_ _
      repeat' split
      all_goals simp [lawful]
    · exact lawful

end Events

end Sys2Proof
end

section
/-! PROOFS. The events of the link ports, the dispatchers, the tracker and the releases keep the laws of the
queues. -/

namespace Sys2Proof

open Machine

/-! ### Events that leave the queues alone -/

theorem queues_takeAck (s : State) (p : Port) (seq : SeqNo) (credit : Trio Nat) :
    queues (takeAck p seq credit s) = queues s := by
  unfold takeAck
  dsimp only
  repeat' split
  all_goals simp

@[simp] theorem queues_endCooling (s : State) (tag : Tag) :
    queues (endCooling tag s) = queues s := by
  unfold endCooling
  dsimp only
  split <;> simp

section Events

variable {s : State} (lawful : (queues s).Lawful)

include lawful

/-! ### Link ports -/

@[simp] theorem queuesLawful_portDown (p : Port) : (queues (portDown p s)).Lawful := by
  have begun : (queues (dispatcherPortDown p
      (s.setPort p (((s.port p).goDown).fault p s.timebase)))).Lawful := lawful
  have stopped := queuesLawful_releasePortDown (queuesLawful_managementPortDown begun p) p
  unfold portDown
  rw [queues_clearAllMarks]
  refine queuesLawful_raiseTogether (queuesLawful_holdPortDown ?_ p) _
  rw [queues_trackerPortDown]
  exact stopped

@[simp] theorem queuesLawful_failAttempt (p : Port) (a : Attempt) :
    (queues (failAttempt p a s)).Lawful := by
  unfold failAttempt enterFaulted
  dsimp only
  repeat' split
  all_goals simp [lawful]

theorem queuesLawful_arriveSpeed (p : Port) (mode lanes rate : Byte) :
    (queues (arriveSpeed p mode lanes rate s)).Lawful := by
  unfold arriveSpeed trainSpeed
  repeat' split
  all_goals simp [lawful]

theorem queuesLawful_arriveIdent (p : Port) (unit : UnitNo) (free : Trio Nat) (last : SeqNo) :
    (queues (arriveIdent p unit free last s)).Lawful := by
  unfold arriveIdent takeIdent
  dsimp only
  repeat' split
  all_goals simp [lawful]

theorem queuesLawful_arriveReady (p : Port) : (queues (arriveReady p s)).Lawful := by
  unfold arriveReady
  repeat' split
  all_goals simp [lawful]

theorem queuesLawful_arriveTraffic (p : Port) (pkt : Packet) (seq : SeqNo) :
    (queues (arriveTraffic p pkt seq s)).Lawful := by
  unfold arriveTraffic takeTraffic
  repeat' split
  all_goals simp [lawful]

theorem queuesLawful_arriveAck (p : Port) (seq : SeqNo) (credit : Trio Nat) :
    (queues (arriveAck p seq credit s)).Lawful := by
  unfold arriveAck
  repeat' split
  all_goals simp [lawful, queues_takeAck]

theorem queuesLawful_arriveReplayReq (p : Port) (seq : SeqNo) :
    (queues (arriveReplayReq p seq s)).Lawful := by
  unfold arriveReplayReq takeReplayReq
  dsimp only
  repeat' split
  all_goals simp [lawful]

theorem queuesLawful_transmit (p : Port) : (queues (transmit p s)).Lawful := by
  unfold transmit
  dsimp only
  repeat' split
  all_goals simp [lawful]

/-! ### Dispatches -/

@[simp] theorem queuesLawful_refuse (p : Port) (ch : Chan) (req : Packet) (status : ReplyStatus)
    (dec : Option Decision) (ns : List NoticeReq) :
    (queues (refuse p ch req status dec ns s)).Lawful := by
  unfold refuse
  repeat' split
  all_goals simp [lawful]

/-- An aperture access takes a free slot of the command queue (R32, R116). -/
theorem queuesLawful_commandArrives (base : Addr) (req : Packet) (room : s.mgmt.queue.length < 4) :
    (queues (setMgmt { s.mgmt with queue := s.mgmt.queue ++ [commandSlotOf base req] } s)).Lawful := by
  have arrived := lawful.commands.arrive (by simpa [queues] using room)
  refine { lawful with commands := ?_ }
  simpa [queues, commandSlotOf] using arrived

theorem queuesLawful_apertureAccess (p : Port) (ch : Chan) (req : Packet) :
    (queues (apertureAccess p ch req s)).Lawful := by
  unfold apertureAccess
  split
  · simp [lawful]
  · split
    · simp [lawful]
    · split
      · next room =>
        rw [queues_finishHead]
        exact queuesLawful_commandArrives lawful _ req room
      · split
        · simp [lawful]
        · simp [lawful]

theorem queuesLawful_carryOut (p : Port) (ch : Chan) (req : Packet) (dec : Decision) :
    (queues (carryOut p ch req dec s)).Lawful := by
  unfold carryOut egressDown
  repeat' split
  all_goals simp [lawful]

theorem queuesLawful_dispatchRequest (p : Port) (ch : Chan) (slot : InSlot) :
    (queues (dispatchRequest p ch slot s)).Lawful := by
  unfold dispatchRequest refuseMalformed fenceDispatch
  dsimp only
  repeat' split
  all_goals simp [lawful, queuesLawful_apertureAccess, queuesLawful_carryOut]

theorem queuesLawful_dispatchHead (p : Port) : (queues (dispatchHead p s)).Lawful := by
  unfold dispatchHead
  repeat' split
  all_goals simp [lawful, queuesLawful_dispatchRequest]

/-- A request enters a free slot of the Hold Queue (R72, R73). -/
theorem queuesLawful_enter (p : Port) (req : Packet) (dec : Decision) (limit : Time)
    (room : s.hold.slots.length < 8) :
    (queues (setHold (s.hold.enter (newHoldSlot s p req dec limit)) s)).Lawful := by
  refine { lawful with ids := ?_ }
  simpa [queues, HoldQueue.enter, newHoldSlot] using IdsLawful.enter lawful.ids room

theorem queuesLawful_dispatcherHoldOffer (p : Port) :
    (queues (dispatcherHoldOffer p s)).Lawful := by
  unfold dispatcherHoldOffer
  split
  · split
    · split
      · next room => exact queuesLawful_complete (queuesLawful_enter lawful _ _ _ _ room) _ _ _ _
      · repeat' split
        all_goals simp [lawful]
    · exact lawful
  · exact lawful

theorem queuesLawful_dispatcherPOffer (p : Port) : (queues (dispatcherPOffer p s)).Lawful := by
  unfold dispatcherPOffer egressDown
  repeat' split
  all_goals simp [lawful]

theorem queuesLawful_dispatcherAllocation (p : Port) : (queues (dispatcherAllocation p s)).Lawful := by
  unfold dispatcherAllocation
  repeat' split
  all_goals simp [lawful]

theorem queuesLawful_dispatcherPlacement (p : Port) :
    (queues (dispatcherPlacement p s)).Lawful := by
  unfold dispatcherPlacement
  repeat' split
  all_goals simp [lawful]

/-! ### Replies and the tracker -/

theorem queuesLawful_presentReply (p : Port) (reply : Packet) :
    (queues (presentReply p reply s)).Lawful := by
  unfold presentReply discardLate consumeFenceReply discardOrphan
  repeat' split
  all_goals simp [lawful]

theorem queuesLawful_takeReply (p : Port) (reply : Packet) (e : TrackEntry) :
    (queues (takeReply p reply e s)).Lawful := by
  unfold takeReply
  repeat' split
  all_goals simp [lawful]

theorem queuesLawful_placeClosing (p : Port) : (queues (placeClosing p s)).Lawful := by
  unfold placeClosing
  repeat' split
  all_goals simp [lawful]

@[simp] theorem queuesLawful_expireAwaiting (e : TrackEntry) :
    (queues (expireAwaiting e s)).Lawful :=
  queuesLawful_notices lawful (lawful.notices.take _ _)

theorem queuesLawful_placeAnswer (p : Port) : (queues (placeAnswer p s)).Lawful := by
  unfold placeAnswer
  repeat' split
  all_goals simp [lawful]

/-! ### Releases -/

theorem queuesLawful_endWait : (queues (endWait s)).Lawful := by
  unfold endWait
  split
  · exact lawful
  · next r inProgress =>
    repeat' split
    all_goals simp [lawful, queues_setPhase s inProgress]

section Steps

variable {r : Release} (inProgress : s.hold.release = some r)

include inProgress

theorem queuesLawful_releaseLookup (h : HoldSlot) : (queues (releaseLookup r h s)).Lawful := by
  unfold releaseLookup
  dsimp only
  repeat' split
  all_goals simp [lawful, queues_setPhase s inProgress]

theorem queuesLawful_releasePOffer (h : HoldSlot) (dec : Decision) :
    (queues (releasePOffer r h dec s)).Lawful := by
  unfold releasePOffer
  repeat' split
  all_goals simp [lawful, queues_setPhase s inProgress]

theorem queuesLawful_releaseAllocation (h : HoldSlot) (dec : Decision) :
    (queues (releaseAllocation r h dec s)).Lawful := by
  unfold releaseAllocation
  repeat' split
  all_goals simp [lawful, queues_setPhase s inProgress, queues_setPhase (allocateEntry _ s) inProgress]

end Steps

theorem queuesLawful_releasePlacement (h : HoldSlot) (dec : Decision) (e : TrackEntry) :
    (queues (releasePlacement h dec e s)).Lawful := by
  unfold releasePlacement
  repeat' split
  all_goals simp [lawful]

theorem queuesLawful_nextReleaseStep : (queues (nextReleaseStep s)).Lawful := by
  unfold nextReleaseStep
  split
  · next r h current =>
    have inProgress := releasing_spec current
    split
    · exact lawful
    · exact queuesLawful_releaseLookup lawful inProgress h
    · exact queuesLawful_releasePOffer lawful inProgress h _
    · exact queuesLawful_releaseAllocation lawful inProgress h _
    · exact queuesLawful_releasePlacement lawful h _ _
  · exact lawful

theorem queuesLawful_holdPOffer : (queues (holdPOffer s)).Lawful := by
  unfold holdPOffer
  split
  · next r h current =>
    split
    · exact queuesLawful_releasePOffer lawful (releasing_spec current) h _
    · exact lawful
  · exact lawful

theorem queuesLawful_holdAllocation : (queues (holdAllocation s)).Lawful := by
  unfold holdAllocation
  split
  · next r h current =>
    split
    · exact queuesLawful_releaseAllocation lawful (releasing_spec current) h _
    · exact lawful
  · exact lawful

theorem queuesLawful_holdPlacement : (queues (holdPlacement s)).Lawful := by
  unfold holdPlacement
  split
  · next r h current =>
    split
    · exact queuesLawful_releasePlacement lawful h _ _
    · exact lawful
  · exact lawful

end Events

end Sys2Proof
end

section
/-! PROOFS. The commands of the Management Unit keep the laws of the queues: what carrying one out comes to,
alone or in a batch, and how the head of the command queue is answered. -/

namespace Sys2Proof

open Machine

/-! ### The head of the command queue -/

theorem not_executes {st : SlotState} (single : st ≠ .executing)
    (batch : ∀ run, st ≠ .executingBatch run) : ¬Executes st := by
  rintro (is | ⟨run, is⟩)
  · exact single is
  · exact batch run is

theorem waitingHead_spec {s : State} {slot : CommandSlot} (waits : waitingHead s = some slot) :
    s.hold.release = none ∧ ∃ rest, s.mgmt.queue = slot :: rest ∧ slot.state = .waiting := by
  unfold waitingHead at waits
  split at waits
  · cases waits
  · next free =>
    split at waits
    · cases waits
    · next first rest queue =>
      split at waits <;> cases waits
      next waiting => exact ⟨by simpa using free, rest, queue, waiting⟩

/-- An access that may begin stands at the head, and no release is in progress. -/
theorem headAccess_spec {s : State} {a : Access} (access : headAccess s = some a) :
    s.hold.release = none ∧ ∃ slot rest, s.mgmt.queue = slot :: rest ∧ slot.state = .waiting := by
  obtain ⟨slot, waits, -⟩ := Option.map_eq_some_iff.1 access
  obtain ⟨free, rest, queue, waiting⟩ := waitingHead_spec waits
  exact ⟨free, slot, rest, queue, waiting⟩

theorem headCommand_spec {s : State} {c : Option (CommandCode × List Byte)}
    (command : headCommand s = some c) : s.hold.release = none ∧ s.mgmt.queue ≠ [] := by
  unfold headCommand at command
  split at command
  · next access =>
    obtain ⟨free, slot, rest, queue, -⟩ := headAccess_spec access
    exact ⟨free, by rw [queue]; nofun⟩
  · cases command

/-- A notice pop stands at the head, which executes nothing. -/
theorem popHead_spec {s : State} {slot : CommandSlot} (pop : popHead s = some slot) :
    ∃ rest, s.mgmt.queue = slot :: rest ∧ ¬Executes slot.state := by
  unfold popHead at pop
  split at pop
  · cases pop
  · next first rest queue =>
    split at pop
    · next popping =>
      cases pop
      exact ⟨rest, queue, by rw [popping]; exact not_executes nofun nofun⟩
    · next other =>
      split at pop <;> cases pop
      next access =>
      obtain ⟨-, k, more, queue', waiting⟩ := headAccess_spec access
      cases queue.symm.trans queue'
      exact ⟨rest, queue, by rw [waiting]; exact not_executes nofun nofun⟩

/-! ### What carrying out a command comes to -/

/-- A command that is finished keeps the laws and the release in progress; one that is suspended has begun a
release, and has done nothing else to the queues. -/
def RunKeeps (s : State) : Run → Prop
  | .finished _ u => (queues u).Lawful ∧ u.hold.release = s.hold.release
  | .suspended u => queues u = { queues s with delivers := some true }

theorem queues_setParam (v : ParamValue) (s : State) : queues (setParam v s).2 = queues s := by
  cases v with
  | replyTimeout | holdLimit | linkPref => rfl
  | default | noticeTarget | unit =>
    simp only [setParam]
    split_ifs <;> rfl

theorem setParam_hold (v : ParamValue) (s : State) : (setParam v s).2.hold = s.hold := by
  cases v with
  | replyTimeout | holdLimit | linkPref => rfl
  | default | noticeTarget | unit =>
    simp only [setParam]
    split_ifs <;> rfl

section Events

variable {s : State} (lawful : (queues s).Lawful)

include lawful

theorem runKeeps_startRelease (body : List Byte) : RunKeeps s (startRelease body s) := by
  unfold startRelease
  dsimp only
  split
  · exact ⟨lawful, rfl⟩
  · split
    · exact ⟨lawful, rfl⟩
    · exact rfl

theorem queuesLawful_applyEdit (edit : EditResult) : (queues (applyEdit edit s).2).Lawful := by
  rw [queues_congr (applyEdit_hold edit s) (applyEdit_mgmt edit s) (applyEdit_notices edit s)]
  exact lawful

theorem queuesLawful_takeSwap : (queues (takeSwap s)).Lawful := by
  unfold takeSwap
  rw [queues_clearAllMarks]
  refine queuesLawful_raiseList ?_ _
  rw [queues_congr (settleDrain_hold _) (settleDrain_mgmt _) (settleDrain_notices _)]
  exact lawful

theorem queuesLawful_forceDrain : (queues (forceDrain s)).Lawful := by
  unfold forceDrain
  refine queuesLawful_raiseList ?_ _
  rw [queues_congr (settleDrain_hold _) (settleDrain_mgmt _) (settleDrain_notices _)]
  exact lawful

theorem runKeeps_setAperture (body : List Byte) : RunKeeps s (runCommand .setAperture body s) := by
  simp only [runCommand, runSetAperture]
  split_ifs with range same
  · exact ⟨lawful, rfl⟩
  · refine ⟨{ lawful with pendingBase := ?_ }, rfl⟩
    rintro _ ⟨⟩
    exact range.1
  · exact ⟨lawful, rfl⟩

theorem runKeeps_setManagers (body : List Byte) : RunKeeps s (runCommand .setManagers body s) := by
  simp only [runCommand, runSetManagers]
  split_ifs with locked empty
  · exact ⟨lawful, rfl⟩
  · exact ⟨lawful, rfl⟩
  · exact ⟨{ lawful with managers := empty }, rfl⟩

/-- What a command does, alone or as a member of a batch, keeps the laws. -/
theorem runKeeps_runCommand (code : CommandCode) (body : List Byte) :
    RunKeeps s (runCommand code body s) := by
  have edited (edit : EditResult) : RunKeeps s (.finished (applyEdit edit s).1 (applyEdit edit s).2) :=
    ⟨queuesLawful_applyEdit lawful edit, by rw [applyEdit_hold]⟩
  cases code with
  | insert => exact edited _
  | remove => exact edited _
  | modify => exact edited _
  | move => exact edited _
  | clearStaging => exact edited _
  | commit =>
    simp only [runCommand, runCommit]
    split_ifs
    · exact ⟨lawful, rfl⟩
    · exact ⟨lawful, rfl⟩
    · exact ⟨queuesLawful_takeSwap lawful, by rw [takeSwap_hold]⟩
  | forceDrain =>
    simp only [runCommand, runForceDrain]
    split_ifs
    · exact ⟨queuesLawful_forceDrain lawful, by rw [forceDrain_hold]⟩
    · exact ⟨lawful, rfl⟩
  | release => exact runKeeps_startRelease lawful body
  | discard =>
    simp only [runCommand, runDiscard]
    split_ifs
    · exact ⟨lawful, rfl⟩
    · split
      · exact ⟨lawful, rfl⟩
      · exact ⟨queuesLawful_refuseHeld lawful _ _, heldRefused_release _ _ s⟩
  | setParam =>
    simp only [runCommand, runSetParam]
    split
    · exact ⟨lawful, rfl⟩
    · exact ⟨(queues_setParam _ s).symm ▸ lawful, by rw [setParam_hold]⟩
  | setAperture => exact runKeeps_setAperture lawful body
  | setManagers => exact runKeeps_setManagers lawful body
  | lockManagers => exact ⟨lawful, rfl⟩
  | linkRestart =>
    simp only [runCommand, runLinkRestart]
    split_ifs
    · exact ⟨queuesLawful_enterTraining lawful .d, rfl⟩
    · exact ⟨lawful, rfl⟩
  | nop | warmReset | batch => exact ⟨lawful, rfl⟩

theorem runKeeps_runMember (code : CommandCode) (body : List Byte) (last : Bool) :
    RunKeeps s (runMember code body last s) := by
  unfold runMember
  split
  · exact ⟨lawful, rfl⟩
  · exact runKeeps_runCommand lawful code body

/-! ### Answers and executions -/

/-- A single command is carried out and answered. -/
theorem queuesLawful_takeCommand {code : CommandCode} {run : List Byte → CommandRun}
    (runs : ∀ body, runCommand code body s = .finished (run body s).1 (run body s).2) :
    (queues (takeCommand code run s)).Lawful := by
  unfold takeCommand
  split
  · next body command =>
    split
    · have ran := runKeeps_runCommand lawful code body
      rw [runs] at ran
      obtain ⟨kept, release⟩ := ran
      exact queuesLawful_answerHead kept (release.trans (headCommand_spec command).1) _ _
    · exact lawful
  · exact lawful

/-- The head executes the release that it has begun. -/
theorem queuesLawful_begin {u : State} (begun : queues u = { queues s with delivers := some true })
    (head : s.mgmt.queue ≠ []) {st : SlotState} (executes : Executes st) :
    (queues (setHeadState st u)).Lawful := by
  rw [queues_setHeadState, begun]
  exact queuesLawful_commands lawful
    (lawful.commands.begin (fun none => head (List.map_eq_nil_iff.1 none)) executes)

theorem queuesLawful_takeRelease : (queues (takeRelease s)).Lawful := by
  unfold takeRelease
  split
  · next body command =>
    obtain ⟨free, head⟩ := headCommand_spec command
    have started := runKeeps_startRelease lawful body
    split
    · next r u came =>
      rw [came] at started
      obtain ⟨kept, release⟩ := started
      exact queuesLawful_answerHead kept (release.trans free) _ _
    · next u came =>
      rw [came] at started
      exact queuesLawful_begin lawful started head (.inl rfl)
  · exact lawful

/-- The execution pass of a batch runs its members one after the other, up to a RELEASE (R121). -/
theorem queuesLawful_runMembers (members : Nat) (run : BatchRun) (free : s.hold.release = none)
    (head : s.mgmt.queue ≠ []) : (queues (runMembers members run s)).Lawful := by
  induction members generalizing run s with
  | zero => exact queuesLawful_setHeadState lawful free nofun
  | succ members ih =>
    unfold runMembers
    split
    · exact queuesLawful_answerHead lawful free _ _
    next code body rest _ =>
      have member := runKeeps_runMember lawful code body rest.isEmpty
      have queue := runMember_queue code body rest.isEmpty s
      split
      · next r u came =>
        rw [came] at member queue
        obtain ⟨kept, release⟩ := member
        have free := release.trans free
        split_ifs
        · exact queuesLawful_answerHead kept free _ _
        · exact ih kept _ free (queue ▸ head)
        · exact queuesLawful_answerHead kept free _ _
      · next u came =>
        rw [came] at member
        exact queuesLawful_begin lawful member head (.inr ⟨_, rfl⟩)

theorem queuesLawful_takeBatch (members : Nat) : (queues (takeBatch members s)).Lawful := by
  unfold takeBatch
  split
  · next command =>
    obtain ⟨free, head⟩ := headCommand_spec command
    split
    · exact queuesLawful_answerHead lawful free _ _
    · exact queuesLawful_runMembers lawful members _ free head
  · split
    · next free queue =>
      split
      · exact queuesLawful_runMembers lawful members _ free (by rw [queue]; nofun)
      · exact lawful
    · exact lawful

theorem queuesLawful_takeWarmReset : (queues (takeWarmReset s)).Lawful := by
  unfold takeWarmReset
  split
  · next command => exact queuesLawful_setHeadState lawful (headCommand_spec command).1 nofun
  · exact lawful

theorem queuesLawful_takeMalformed : (queues (takeMalformed s)).Lawful := by
  unfold takeMalformed
  split
  · next command => exact queuesLawful_answerHead lawful (headCommand_spec command).1 _ _
  · exact lawful

theorem queuesLawful_takeUnsupported : (queues (takeUnsupported s)).Lawful := by
  unfold takeUnsupported
  split
  · next access => exact queuesLawful_setHeadState lawful (headAccess_spec access).1 nofun
  · exact lawful

theorem queuesLawful_takeNotManager : (queues (takeNotManager s)).Lawful := by
  unfold takeNotManager
  split
  · next access =>
    exact queuesLawful_setHeadState (queuesLawful_raise lawful _) (headAccess_spec access).1 nofun
  · exact lawful

theorem queuesLawful_captureRead : (queues (captureRead s)).Lawful := by
  unfold captureRead
  split
  · next access => exact queuesLawful_setHeadState lawful (headAccess_spec access).1 nofun
  · exact lawful

end Events

end Sys2Proof
end

section
/-! PROOFS. The replies of the head of the command queue, the warm reset and the notices keep the laws of the
queues, and what follows for every command and every step. -/

namespace Sys2Proof

open Machine

section Events

variable {s : State} (lawful : (queues s).Lawful)

include lawful

/-! ### Replies of the head -/

section Head

variable {slot : CommandSlot} {rest : List CommandSlot} (queue : s.mgmt.queue = slot :: rest)
  (idle : ¬Executes slot.state)

include queue idle

/-- No release delivers to a head that does not execute one. -/
theorem quiet_of_idle : (queues s).delivers ≠ some true := by
  intro delivers
  obtain ⟨st, head, executes⟩ := lawful.commands.released delivers
  have first : (queues s).commands.head? = some slot.state := by simp [queues, queue]
  cases first.symm.trans head
  exact idle executes

/-- The slot of a head that does not execute a release is freed, and a pending move takes effect (R109,
R116). -/
theorem queuesLawful_placeReply (status : ReplyStatus) (payload : List Byte) :
    (queues (placeReply slot status payload s)).Lawful := by
  have popped := lawful.commands.pop (st := slot.state) (by simp [queues, queue]) idle
  rw [show (queues s).commands.tail = s.mgmt.queue.tail.map (·.state) from List.map_tail.symm] at popped
  refine { lawful with commands := popped, base := ?_, pendingBase := nofun }
  change Aligned (s.mgmt.pendingBase.getD s.mgmt.apertureBase)
  cases pending : s.mgmt.pendingBase with
  | none => exact lawful.base
  | some base => exact lawful.pendingBase base pending

end Head

/-- The warm reset keeps some of the hold ids, turns every access ABORTING and raises notices (R82, R128). -/
theorem queuesLawful_warmResetAll (quiet : (queues s).delivers ≠ some true) :
    (queues (warmResetAll s)).Lawful := by
  obtain ⟨order, -, -, reset⟩ := warmResetAll_eq s
  rw [reset]
  have ids : ∀ event, ((s.hold.slots.filterMap (warmSlot event)).map (·.id)).Sublist
      (s.hold.slots.map (·.id)) := by
    intro event
    have same : ((·.id) ∘ fun h : HoldSlot =>
        if isHeld h then { h with state := .answering .aborted event } else h) = (·.id) := by
      funext h
      dsimp only [Function.comp_apply]
      split <;> rfl
    rw [filterMap_warmSlot, List.map_map, same]
    exact List.filter_sublist.map _
  refine { lawful with
    ids := lawful.ids.sublist (ids _)
    commands := ?_
    notices := lawful.notices.foldl_take _ _ }
  simpa [queues, Function.comp_def, blocksReset, Management.warmReset] using
    lawful.commands.abort quiet

theorem queuesLawful_offerReply : (queues (offerReply s)).Lawful := by
  unfold offerReply
  split
  · exact lawful
  next slot rest queue =>
    split
    · split
      · next r ready =>
        have idle : ¬Executes slot.state := by
          rw [ready]
          exact not_executes nofun nofun
        have placed := queuesLawful_placeReply lawful queue idle r.status r.payload
        have quiet := quiet_of_idle lawful queue idle
        dsimp only
        split
        · exact queuesLawful_warmResetAll placed quiet
        · exact placed
      · next aborting =>
        refine queuesLawful_placeReply lawful queue ?_ _ _
        rw [aborting]
        exact not_executes nofun nofun
      · exact lawful
    · exact lawful

theorem queuesLawful_takePop : (queues (takePop s)).Lawful := by
  unfold takePop
  split
  · exact lawful
  · next slot pop =>
    obtain ⟨rest, queue, idle⟩ := popHead_spec pop
    split
    · exact queuesLawful_placeReply (queuesLawful_popNotice lawful) queue idle _ _
    · rw [queues_setHeadState]
      exact queuesLawful_commands lawful
        (lawful.commands.setHead (quiet_of_idle lawful queue idle) nofun)

theorem queuesLawful_emitNotice : (queues (emitNotice s)).Lawful := by
  unfold emitNotice
  split
  · exact lawful
  · split
    · exact queuesLawful_popNotice (s := enqueue _ _ _ s) lawful
    · exact lawful

end Events

/-! ### Every command -/

/-- After a cold reset the queues are empty, and the strap places the aperture on a multiple of 64 KiB
(R108). -/
theorem queuesLawful_cold {strap : BitVec 4} {s t : State}
    (h : exec (.coldReset strap) s = .next t) : (queues t).Lawful := by
  cases h
  refine { (queueLaws_iff _).1 queueLaws_reset with base := ?_ }
  have small := strap.isLt
  simp only [Aligned, queues, strapBase]
  bv_omega

theorem exec_keeps_queues {c : Instr} {s t : State} (lawful : (queues s).Lawful)
    (h : exec c s = .next t) : (queues t).Lawful := by
  cases c with
  | coldReset strap => exact queuesLawful_cold h
  | nop | insert | remove | modify | move | clearStaging | commit | forceDrain | discard | setParam
  | setAperture | setManagers | lockManagers | linkRestart =>
    cases h; exact queuesLawful_takeCommand lawful fun _ => rfl
  | batch members => cases h; exact queuesLawful_takeBatch lawful members
  | commandReplyPlacement =>
    cases h; exact queuesLawful_offerReply (queuesLawful_captureRead lawful)
  | release => cases h; exact queuesLawful_takeRelease lawful
  | warmReset => cases h; exact queuesLawful_takeWarmReset lawful
  | malformedCommandBlock => cases h; exact queuesLawful_takeMalformed lawful
  | unsupportedApertureAccess => cases h; exact queuesLawful_takeUnsupported lawful
  | notManagerRefusal => cases h; exact queuesLawful_takeNotManager lawful
  | noticePop => cases h; exact queuesLawful_takePop lawful
  | noticeEmission => cases h; exact queuesLawful_emitNotice lawful
  | dispatch p => cases h; exact queuesLawful_dispatchHead lawful p
  | holdOffer p => cases h; exact queuesLawful_dispatcherHoldOffer lawful p
  | pTransmitOffer party =>
    cases h
    cases party with
    | dispatcher p => exact queuesLawful_dispatcherPOffer lawful p
    | hold => exact queuesLawful_holdPOffer lawful
  | tagAllocation party =>
    cases h
    cases party with
    | dispatcher p => exact queuesLawful_dispatcherAllocation lawful p
    | hold => exact queuesLawful_holdAllocation lawful
  | nTransmitPlacement party =>
    cases h
    cases party with
    | dispatcher p => exact queuesLawful_dispatcherPlacement lawful p
    | hold => exact queuesLawful_holdPlacement lawful
  | hitCountReport party =>
    cases h
    split <;> exact lawful
  | replyPresentation p =>
    cases h
    split
    · exact queuesLawful_presentReply lawful p _
    · exact lawful
  | replyTake p =>
    cases h
    split
    · exact queuesLawful_takeReply lawful p _ _
    · exact lawful
  | entryExpiry | drainFenceExpiry | orphanedExpiry | coolingExpiry | holdExpiry
  | referenceClockStable | attemptDeadlineExpiry | holdOffExpiry | sendAck | sendReplayReq
  | replayResend =>
    cases h
    split <;> simp [lawful]
  | closingReplyPlacement p => cases h; exact queuesLawful_placeClosing lawful p
  | holdAnswerPlacement p => cases h; exact queuesLawful_placeAnswer lawful p
  | releaseWaitEnd => cases h; exact queuesLawful_endWait lawful
  | releaseSteps => cases h; exact queuesLawful_nextReleaseStep lawful
  | sendTrain p => cases h; exact lawful
  | ackDeadlineExpiry p =>
    cases h
    repeat' split
    all_goals simp [lawful]
  | speedReceived | identReceived | readyReceived | receivePacket | ackReceived
  | replayReqReceived =>
    cases h
    repeat' split
    all_goals simp [lawful, queuesLawful_arriveSpeed, queuesLawful_arriveIdent,
      queuesLawful_arriveReady, queuesLawful_arriveTraffic, queuesLawful_arriveAck,
      queuesLawful_arriveReplayReq, takeDamaged]
  | transmitPacket p => cases h; exact queuesLawful_transmit lawful p

/-- Settles O59: a microsecond leaves the queues alone, and every command keeps their laws. -/
theorem queueLawsAreKept : Obligations.QueueLawsAreKept := by
  intro s t laws h
  rw [queueLaws_iff] at laws ⊢
  rcases step_cases h with rfl | ⟨c, pending, ran⟩
  · exact laws
  · exact exec_keeps_queues (s := { s with pending := pending }) laws ran

end Sys2Proof
end

section
/-! PROOFS. The Hold Queue's own ends of a record: its expiry (R74), DISCARD (R76), and a RELEASE up to the
end of its wait (R77). -/

namespace Sys2Proof

open Machine

/-! ### The expiry of a held record (R74, R78) -/

section Expiry

variable {id : HoldId} {s : State}

theorem holdExpiry_due {h : HoldSlot} (due : dueHeld reached id s = some h) :
    exec (.holdExpiry id) s = .next (heldExpired h s) := by
  simp only [exec, execHoldExpiry, due, expireHeld_eq]

theorem holdExpiry_notDue (notDue : ¬ExpiryOf (Reached s.timebase) s (.holdExpiry id)) :
    exec (.holdExpiry id) s = .next s := by
  have none : dueHeld reached id s = none := by
    rw [Option.eq_none_iff_forall_ne_some]
    intro h due
    obtain ⟨under, d, rest⟩ := (dueHeld_iff (reached_iff s.timebase) id h).1 due
    exact notDue ⟨h, d, under, rest⟩
  simp only [exec, execHoldExpiry, none]

end Expiry

/-- Settles O31: a record expires when it is due, and it is not due in release steps, before its deadline, or
when it is not HELD. -/
theorem holdExpires : Obligations.HoldExpires := by
  intro id s
  refine ⟨fun h deadline under held past => ⟨fun waits => ?_, fun steps => ?_⟩, fun early => ?_,
    fun gone => ?_⟩
  · have due := (dueHeld_iff (reached_iff s.timebase) id h).2 ⟨under, deadline, held, past, waits⟩
    exact holdExpiry_due due
  · obtain ⟨r, inProgress, ofRecord, phase⟩ := steps
    refine holdExpiry_notDue ?_
    rintro ⟨_, _, -, -, -, waits⟩
    exact phase (waits r inProgress ofRecord)
  · refine holdExpiry_notDue ?_
    rintro ⟨h, d, under, held, past, -⟩
    exact early h d under held past
  · refine holdExpiry_notDue ?_
    rintro ⟨h, d, under, -⟩
    cases under.symm.trans (findHeld_eq_none gone)

/-! ### DISCARD (R76) -/

section Discard

variable {body : List Byte} {s : State}

theorem runDiscard_zero (zero : byteAt body 0 = 0) : runDiscard body s = (⟨.badField, 0⟩, s) :=
  if_pos zero

theorem runDiscard_held (nonzero : byteAt body 0 ≠ 0) {h : HoldSlot}
    (under : heldUnder (byteAt body 0) s = some h) :
    runDiscard body s = (⟨.done, 0⟩, heldRefused h .refused s) := by
  rw [heldUnder_eq] at under
  unfold runDiscard
  simp only [if_neg nonzero, under]
  rfl

theorem runDiscard_notHeld (nonzero : byteAt body 0 ≠ 0)
    (none : s.hold.findHeld (byteAt body 0) = none) :
    runDiscard body s = (⟨.noHold, 0⟩, s) := by
  unfold runDiscard
  simp only [if_neg nonzero, none]
  rfl

end Discard

/-- Settles O32, by the hold id that the body names. -/
theorem discardRefusesHeldRequest : Obligations.DiscardRefusesHeldRequest := by
  intro s slot rest body takes
  refine ⟨fun zero => ?_, fun nonzero => ⟨fun h under => ?_, fun gone => ?_⟩⟩
  · exact congrArg _ (takeCommand_eq takes (runDiscard_zero zero) rfl)
  · exact congrArg _ (takeCommand_eq takes (runDiscard_held nonzero under) (by rw [heldRefused_mgmt]))
  · exact congrArg _ (takeCommand_eq takes (runDiscard_notHeld nonzero (findHeld_eq_none gone)) rfl)

/-! ### RELEASE and its wait (R77) -/

section Start

variable {body : List Byte} {s : State}

theorem startRelease_zero (zero : byteAt body 0 = 0) :
    startRelease body s = .finished ⟨.badField, 0⟩ s :=
  if_pos zero

theorem startRelease_held (nonzero : byteAt body 0 ≠ 0) {h : HoldSlot}
    (under : heldUnder (byteAt body 0) s = some h) :
    startRelease body s = .suspended { s with hold := { s.hold with
      release := some ⟨h, (s.port h.origin).ingress.p.getLast?.map (·.stamp), .waiting, true⟩ } } := by
  rw [heldUnder_eq] at under
  unfold startRelease
  simp only [if_neg nonzero, under]
  rfl

theorem startRelease_notHeld (nonzero : byteAt body 0 ≠ 0)
    (none : s.hold.findHeld (byteAt body 0) = none) :
    startRelease body s = .finished ⟨.noHold, 0⟩ s := by
  unfold startRelease
  simp only [if_neg nonzero, none]
  rfl

/-- A RELEASE may be any member of a batch (R122). -/
theorem runMember_release (last : Bool) : runMember .release body last s = startRelease body s :=
  if_neg (by nofun)

/-- A single RELEASE that begins nothing is answered at once. -/
theorem takeRelease_finished {slot : CommandSlot} {rest : List CommandSlot} {r : Result}
    (takes : Takes .release body slot rest s) (start : startRelease body s = .finished r s) :
    takeRelease s = answered slot rest r (singleIndex r) s := by
  unfold takeRelease
  simp only [headCommand_of_takes takes, start]
  exact answerHead_eq r _ takes.2.1

/-- A single RELEASE that begins executes until the release ends (R116). -/
theorem takeRelease_suspended {slot : CommandSlot} {rest : List CommandSlot} {t : State}
    (takes : Takes .release body slot rest s) (start : startRelease body s = .suspended t) :
    takeRelease s = setHeadState .executing t := by
  unfold takeRelease
  simp only [headCommand_of_takes takes, start]

end Start

theorem waitOver_iff (r : Release) (lp : LinkPort) : waitOver r lp = true ↔
    ∀ m, r.mark = some m → ∀ k ∈ lp.ingress.p, m < k.stamp := by
  unfold waitOver
  cases r.mark <;> simp

theorem stillHeld_iff (q : HoldQueue) (h : HoldSlot) : q.stillHeld h = true ↔
    h ∈ q.slots ∧ ∃ d, h.state = .held d := by
  unfold HoldQueue.stillHeld
  cases h.state <;> simp [HoldState.isHeld]

section Wait

variable {s : State} {r : Release} (inProgress : s.hold.release = some r)

include inProgress

theorem endWait_notOver (goesOn : waitOver r (s.port r.record.origin) ≠ true) : endWait s = s := by
  unfold endWait
  rw [inProgress]
  exact if_neg fun ended => goesOn ended.2

/-- The end of a wait that is over: the Hold Queue looks at the record, and then at its origin (R77). -/
theorem endWait_over (waits : r.phase = .waiting)
    (ended : waitOver r (s.port r.record.origin) = true) :
    endWait s =
      if s.hold.stillHeld r.record = false then releaseEnded r.delivers ⟨.noHold, 0⟩ s
      else if (s.port r.record.origin).state ≠ .up then
        releaseEnded r.delivers ⟨.originDown, 0⟩ (heldRefused r.record .refused s)
      else releaseGoesOn .lookup s := by
  have gone : endRelease (refusal .noHold) s = releaseEnded r.delivers ⟨.noHold, 0⟩ s :=
    endRelease_eq inProgress _ nofun
  have down : endRelease (refusal .originDown) (heldRefused r.record .refused s) =
      releaseEnded r.delivers ⟨.originDown, 0⟩ (heldRefused r.record .refused s) :=
    endRelease_eq ((heldRefused_release r.record .refused s).trans inProgress) _ nofun
  have steps : setPhase r .lookup s = releaseGoesOn .lookup s := setPhase_eq inProgress .lookup rfl
  rw [← gone, ← down, ← steps]
  unfold endWait
  simp only [inProgress, waits, ended, and_self, if_true, refuseHeld_eq]

end Wait

/-- Settles O33: the start of a release, alone and in a batch, and the end of its wait. -/
theorem releaseBeginsAndWaits : Obligations.ReleaseBeginsAndWaits := by
  refine ⟨fun s slot rest body takes => ?_, fun s body last => ?_,
    fun s h mark delivers inProgress => ?_⟩
  · have queue : s.mgmt.queue = slot :: rest := takes.2.1
    refine ⟨fun zero => ?_, fun nonzero => ⟨fun h under => ?_, fun gone => ?_⟩⟩
    · exact congrArg _ (takeRelease_finished takes (startRelease_zero zero))
    · refine congrArg _ ((takeRelease_suspended takes (startRelease_held nonzero under)).trans ?_)
      exact setHeadState_eq .executing queue
    · have none := findHeld_eq_none gone
      exact congrArg _ (takeRelease_finished takes (startRelease_notHeld nonzero none))
  · rw [runMember_release]
    exact ⟨startRelease_zero, fun nonzero => ⟨fun h => startRelease_held nonzero,
      fun gone => startRelease_notHeld nonzero (findHeld_eq_none gone)⟩⟩
  · intro held isOver
    have endedIff := waitOver_iff ⟨h, mark, .waiting, delivers⟩ (s.port h.origin)
    have heldIff := stillHeld_iff s.hold h
    refine ⟨fun goesOn => ?_, fun ended gone => ?_, fun ended stands down => ?_,
      fun ended stands up => ?_⟩
    · exact congrArg _ (endWait_notOver inProgress fun ended => goesOn (endedIff.1 ended))
    all_goals
      refine congrArg _ ((endWait_over inProgress rfl (endedIff.2 ended)).trans ?_)
    · exact if_pos (Bool.eq_false_of_not_eq_true fun stands => gone (heldIff.1 stands))
    · rw [if_neg (by simp [heldIff.2 stands]), if_pos down]
    · rw [if_neg (by simp [heldIff.2 stands]), if_neg (not_not.2 up)]

end Sys2Proof
end

section
/-! PROOFS. The staging edits of the Management Unit: INSERT (R85), REMOVE (R86), MODIFY (R87), MOVE (R88) and
CLEAR_STAGING (R89). -/

namespace Sys2Proof

open Machine

/-! ### A staging edit carried out by a single command (R83) -/

section Command

variable {code : CommandCode} {body : List Byte} {slot : CommandSlot} {rest : List CommandSlot} {s : State}
  {run : List Byte → CommandRun} {edit : EditResult}

theorem takeCommand_editRefused (takes : Takes code body slot rest s)
    (runs : run body s = applyEdit edit s) {c : ResultCode} (failed : edit = .error c)
    (notOk : c.ok = false) : takeCommand code run s = refusedWith slot rest c s := by
  subst failed
  have index : singleIndex (refusal c) = 1 := by simp [singleIndex, refusal, notOk]
  exact (takeCommand_eq takes runs rfl).trans (by rw [index]; rfl)

theorem takeCommand_editTaken (takes : Takes code body slot rest s)
    (runs : run body s = applyEdit edit s) {staging : List Entry} (done : edit = .ok staging) :
    takeCommand code run s = edited slot rest staging s := by
  subst done
  exact takeCommand_eq takes runs rfl

end Command

/-! ### The entry of a label -/

theorem staged_eq_none {st : Steering} {label : Label} (free : ∀ f ∈ st.staging, f.label ≠ label) :
    st.staged label = none :=
  List.find?_eq_none.2 fun f mem => by simpa using free f mem

theorem staged_isSome_iff {st : Steering} {label : Label} :
    (st.staged label).isSome = true ↔ ∃ f ∈ st.staging, f.label = label := by
  simp [Steering.staged]

theorem pinnedLabel_eq_false {s : State} {label : Label} (unpinned : ¬PinnedLabel label s) :
    s.steering.pinnedLabel label = false :=
  Bool.eq_false_of_not_eq_true fun pinned => unpinned ((pinnedLabel_iff label s).2 pinned)

/-! ### INSERT (R85) -/

section Insert

variable {units : Duo UnitNo} {body : List Byte} {st : Steering} {e : Entry}

theorem insertEdit_undecoded (undecoded : entryOfImage (body.drop 2) = none) :
    insertEdit units body st = .error .badField := by
  simp only [insertEdit, undecoded]

variable (decoded : entryOfImage (body.drop 2) = some e)

include decoded

theorem insertEdit_invalid (bad : 64 < field body 0 2 ∨ ¬ValidEntry units e) :
    insertEdit units body st = .error .badField := by
  rw [validEntry_iff, Bool.not_eq_true] at bad
  simp only [insertEdit, decoded, if_pos bad]

/-- The checks after the image's own: the label, the room and the position, in this order. -/
theorem insertEdit_valid (position : field body 0 2 ≤ 64) (valid : ValidEntry units e) :
    insertEdit units body st =
      if (st.staged e.label).isSome then .error .dupLabel
      else if 64 ≤ st.staging.length then .error .listFull
      else if st.staging.length < field body 0 2 then .error .badPosition
      else .ok (placeAt (field body 0 2) e st.staging) := by
  rw [validEntry_iff] at valid
  have good : ¬(64 < field body 0 2 ∨ e.valid units = false) := by simp [valid, position]
  simp only [insertEdit, decoded, if_neg good]
  rfl

end Insert

/-- Settles O39, by what the image decodes to and then by the checks on the list. -/
theorem entryIsInserted : Obligations.EntryIsInserted := by
  intro s slot rest body takes
  have refused {c : ResultCode} (notOk : c.ok = false)
      (failed : insertEdit s.mgmt.params.unit body s.steering = .error c) :
      exec .insert s = .next (refusedWith slot rest c s) :=
    congrArg _ (takeCommand_editRefused takes rfl failed notOk)
  refine ⟨fun undecoded => ?_, fun arrival kinds action isArrival isKinds isAction presence => ?_⟩
  · exact refused rfl (insertEdit_undecoded (entryOfImage_none undecoded))
  have decoded := entryOfImage_some isArrival isKinds isAction presence
  refine ⟨fun bad => ?_, fun position valid => ?_⟩
  · exact refused rfl (insertEdit_invalid decoded bad)
  have checks := insertEdit_valid (st := s.steering) decoded position valid
  refine ⟨fun staged => ?_, fun free => ?_⟩
  · exact refused rfl (checks.trans (if_pos (staged_isSome_iff.2 staged)))
  rw [if_neg (by rw [staged_eq_none free]; nofun)] at checks
  refine ⟨fun full => ?_, fun room past => ?_, fun room within => ?_⟩
  · exact refused rfl (checks.trans (if_pos full))
  all_goals rw [if_neg (Nat.not_le.2 room)] at checks
  · exact refused rfl (checks.trans (if_pos past))
  · exact congrArg _ (takeCommand_editTaken takes rfl
      (checks.trans (if_neg (Nat.not_lt.2 within))))

/-! ### REMOVE (R86) and MOVE (R88) -/

section RemoveAndMove

variable {body : List Byte} {s : State} {label : Label} (named : BitVec.ofNat 16 (field body 0 2) = label)

include named

theorem removeEdit_zero (zero : label = 0) : removeEdit body s.steering = .error .badField := by
  subst named
  exact if_pos zero

theorem removeEdit_noLabel (nonzero : label ≠ 0) (free : ∀ f ∈ s.steering.staging, f.label ≠ label) :
    removeEdit body s.steering = .error .noLabel := by
  simp only [removeEdit, named, if_neg nonzero, staged_eq_none free]
  rfl

/-- The last check of REMOVE: the label of an entry staged is pinned, or the entry leaves the list. -/
theorem removeEdit_staged (nonzero : label ≠ 0) (staged : ∃ f ∈ s.steering.staging, f.label = label) :
    removeEdit body s.steering =
      if s.steering.pinnedLabel label then .error .pinned
      else .ok (takeOut label s.steering.staging) := by
  have found : (s.steering.staged label).isNone = false := by
    simpa only [Option.isNone_eq_false_iff] using staged_isSome_iff.2 staged
  simp only [removeEdit, named, if_neg nonzero, found]
  rfl

theorem moveEdit_badField (bad : label = 0 ∨ 63 < field body 2 2) :
    moveEdit body s.steering = .error .badField := by
  subst named
  exact if_pos bad

variable (nonzero : label ≠ 0) (position : field body 2 2 ≤ 63)

include nonzero position

theorem moveEdit_noLabel (free : ∀ f ∈ s.steering.staging, f.label ≠ label) :
    moveEdit body s.steering = .error .noLabel := by
  have good : ¬(label = 0 ∨ 63 < field body 2 2) := not_or.2 ⟨nonzero, Nat.not_lt.2 position⟩
  simp only [moveEdit, named, if_neg good, staged_eq_none free]

/-- The last checks of MOVE: the pinned label, then the position. -/
theorem moveEdit_staged {e : Entry} (found : s.steering.staged label = some e) :
    moveEdit body s.steering =
      if s.steering.pinnedLabel label then .error .pinned
      else if s.steering.staging.length ≤ field body 2 2 then .error .badPosition
      else .ok (placeAt (field body 2 2) e (takeOut label s.steering.staging)) := by
  have good : ¬(label = 0 ∨ 63 < field body 2 2) := not_or.2 ⟨nonzero, Nat.not_lt.2 position⟩
  simp only [moveEdit, named, if_neg good, found]

end RemoveAndMove

/-- Settles O40, by the checks of each command in their order. -/
theorem entryIsRemovedOrMoved : Obligations.EntryIsRemovedOrMoved := by
  intro s slot rest body label position staging others
  refine ⟨fun takes => ⟨fun zero => ?_, fun nonzero free => ?_, fun nonzero staged => ?_⟩,
    fun takes => ⟨fun bad => ?_, fun nonzero small => ⟨fun free => ?_, fun e found => ?_⟩⟩,
    fun takes => ?_⟩
  · exact congrArg _ (takeCommand_editRefused takes rfl (removeEdit_zero rfl zero) rfl)
  · exact congrArg _ (takeCommand_editRefused takes rfl (removeEdit_noLabel rfl nonzero free) rfl)
  · have checks := removeEdit_staged (body := body) rfl nonzero staged
    refine ⟨fun pinned => ?_, fun unpinned => ?_⟩
    · exact congrArg _ (takeCommand_editRefused takes rfl
        (checks.trans (if_pos ((pinnedLabel_iff label s).1 pinned))) rfl)
    · rw [if_neg (by rw [pinnedLabel_eq_false unpinned]; nofun)] at checks
      exact congrArg _ (takeCommand_editTaken takes rfl checks)
  · exact congrArg _ (takeCommand_editRefused takes rfl (moveEdit_badField rfl bad) rfl)
  · exact congrArg _ (takeCommand_editRefused takes rfl (moveEdit_noLabel rfl nonzero small free) rfl)
  · have checks := moveEdit_staged (body := body) rfl nonzero small found
    refine ⟨fun pinned => ?_, fun unpinned past => ?_, fun unpinned within => ?_⟩
    · exact congrArg _ (takeCommand_editRefused takes rfl
        (checks.trans (if_pos ((pinnedLabel_iff label s).1 pinned))) rfl)
    all_goals rw [if_neg (by rw [pinnedLabel_eq_false unpinned]; nofun)] at checks
    · exact congrArg _ (takeCommand_editRefused takes rfl (checks.trans (if_pos past)) rfl)
    · exact congrArg _ (takeCommand_editTaken takes rfl
        (checks.trans (if_neg (Nat.not_le.2 within))))
  · exact congrArg _ (takeCommand_editTaken takes rfl rfl)

/-! ### MODIFY (R87) -/

/-- An entry with the selected fields of an image, whose codes name an arrival, kinds and an action; the
codes of fields not selected are not read. -/
def modifiedEntry (sel : BitVec 16) (img : List Byte) (arrival : Arrival) (kinds : Kinds) (action : Action)
    (e : Entry) : Entry :=
  let given := imageEntry img arrival kinds action
  { label := e.label
    arrival := if sel.getLsbD 0 then given.arrival else e.arrival
    sources := if sel.getLsbD 1 then given.sources else e.sources
    kinds := if sel.getLsbD 2 then given.kinds else e.kinds
    base := if sel.getLsbD 3 then given.base else e.base
    size := if sel.getLsbD 4 then given.size else e.size
    action := if sel.getLsbD 5 then given.action else e.action
    target := if sel.getLsbD 6 then given.target else e.target
    translated := if sel.getLsbD 7 then given.translated else e.translated
    replyTimeout := if sel.getLsbD 8 then given.replyTimeout else e.replyTimeout
    holdLimit := if sel.getLsbD 9 then given.holdLimit else e.holdLimit
    notify := if sel.getLsbD 10 then given.notify else e.notify
    pinned := if sel.getLsbD 11 then given.pinned else e.pinned }

theorem eq_of_inRange {α : Type} {ok : α → Bool} {a b : α} (read : inRange ok a = some b) : b = a := by
  unfold inRange at read
  split_ifs at read
  exact (Option.some.inj read).symm

theorem eq_of_absentOrInRange {α : Type} {ok : α → Bool} {a b : Option α}
    (read : absentOrInRange ok a = some b) : b = a := by
  unfold absentOrInRange at read
  split_ifs at read
  exact (Option.some.inj read).symm

/-- The field that a selection leaves: the value read when it is selected, the old one otherwise. -/
theorem getD_of_selected {α : Type} {sel : BitVec 16} {bit : Nat} {value : Option α} {edit : Option α}
    {new : α} (taken : selected sel bit value = some edit)
    (is : ∀ a, sel.getLsbD bit = true → value = some a → a = new) (old : α) :
    edit.getD old = if sel.getLsbD bit then new else old := by
  unfold selected at taken
  split_ifs at taken ⊢ with chosen
  · obtain ⟨a, read, rfl⟩ := Option.map_eq_some_iff.1 taken
    exact is a chosen read
  · cases taken
    rfl

theorem apply_of_editOfImage {sel : BitVec 16} {img : List Byte} {edit : EntryEdit} {arrival : Arrival}
    {kinds : Kinds} {action : Action} (decoded : editOfImage sel img = some edit)
    (isArrival : sel.getLsbD 0 = true → ArrivalCode (byteAt img 2) arrival)
    (isKinds : sel.getLsbD 2 = true → KindsCode (byteAt img 3) kinds)
    (isAction : sel.getLsbD 5 = true → ActionCode (byteAt img 14) action) (e : Entry) :
    edit.apply e = modifiedEntry sel img arrival kinds action e := by
  simp only [arrivalCode_iff, kindsCode_iff, actionCode_iff] at isArrival isKinds isAction
  unfold editOfImage at decoded
  split at decoded
  · cases decoded
  simp only [Option.bind_eq_bind, Option.bind_eq_some_iff, Option.pure_def, Option.some.injEq] at decoded
  obtain ⟨_, arrivalRead, _, sourcesRead, _, kindsRead, _, baseRead, _, sizeRead, _, actionRead,
    _, targetRead, _, translatedRead, _, timeoutRead, _, limitRead, _, notifyRead, _, pinnedRead,
    rfl⟩ := decoded
  unfold EntryEdit.apply modifiedEntry
  congr 1
  · exact getD_of_selected arrivalRead
      (fun _ chosen read => Option.some.inj (read.symm.trans (isArrival chosen))) _
  · exact getD_of_selected sourcesRead (fun _ _ => eq_of_inRange) _
  · exact getD_of_selected kindsRead
      (fun _ chosen read => Option.some.inj (read.symm.trans (isKinds chosen))) _
  · exact getD_of_selected baseRead (fun _ _ => eq_of_inRange) _
  · exact getD_of_selected sizeRead (fun _ _ => eq_of_inRange) _
  · exact getD_of_selected actionRead
      (fun _ chosen read => Option.some.inj (read.symm.trans (isAction chosen))) _
  · exact getD_of_selected targetRead (fun _ _ read => (Option.some.inj read).symm) _
  · exact getD_of_selected translatedRead (fun _ _ => eq_of_absentOrInRange) _
  · exact getD_of_selected timeoutRead (fun _ _ => eq_of_absentOrInRange) _
  · exact getD_of_selected limitRead (fun _ _ => eq_of_absentOrInRange) _
  · exact getD_of_selected notifyRead (fun _ _ read => (Option.some.inj read).symm) _
  · exact getD_of_selected pinnedRead (fun _ _ read => (Option.some.inj read).symm) _

section Modify

variable {units : Duo UnitNo} {body : List Byte} {st : Steering} {label : Label} {edit : EntryEdit}
  (named : BitVec.ofNat 16 (field body 0 2) = label)

include named

theorem modifyEdit_badField
    (bad : editOfImage (BitVec.ofNat 16 (field body 2 2)) (body.drop 4) = none ∨ label = 0) :
    modifyEdit units body st = .error .badField := by
  cases decoded : editOfImage (BitVec.ofNat 16 (field body 2 2)) (body.drop 4) with
  | none => simp only [modifyEdit, decoded]
  | some edit =>
    have zero : label = 0 := bad.resolve_left (by rw [decoded]; nofun)
    simp only [modifyEdit, decoded, named, if_pos zero]

variable (decoded : editOfImage (BitVec.ofNat 16 (field body 2 2)) (body.drop 4) = some edit)
  (nonzero : label ≠ 0)

include decoded nonzero

theorem modifyEdit_noLabel (free : ∀ f ∈ st.staging, f.label ≠ label) :
    modifyEdit units body st = .error .noLabel := by
  simp only [modifyEdit, decoded, named, if_neg nonzero, staged_eq_none free]

/-- The last checks of MODIFY: the pinned label, then the entry that the selected fields make. -/
theorem modifyEdit_staged {e : Entry} (found : st.staged label = some e) :
    modifyEdit units body st =
      if st.pinnedLabel label then .error .pinned
      else if (edit.apply e).valid units then
        .ok (st.staging.map fun f => if f.label = label then edit.apply f else f)
      else .error .badField := by
  simp only [modifyEdit, decoded, named, if_neg nonzero, found]

end Modify

/-- Settles O41: check 1 is the decoding of the edit, and the edit applied is the entry with the selected
fields replaced. -/
theorem entryIsModified : Obligations.EntryIsModified := by
  intro s slot rest body takes label sel img staging chosen newEntry
  have refused {c : ResultCode} (notOk : c.ok = false)
      (failed : modifyEdit s.mgmt.params.unit body s.steering = .error c) :
      exec .modify s = .next (refusedWith slot rest c s) :=
    congrArg _ (takeCommand_editRefused takes rfl failed notOk)
  refine ⟨fun bad => ?_, fun allowed nonzero => ?_⟩
  · rw [selectionAllowed_iff] at bad
    exact refused rfl (modifyEdit_badField rfl bad)
  obtain ⟨edit, decoded⟩ : ∃ edit, editOfImage sel img = some edit :=
    Option.ne_none_iff_exists'.1 fun none => (selectionAllowed_iff sel img).2 none allowed
  refine ⟨fun free => ?_, fun e found => ?_⟩
  · exact refused rfl (modifyEdit_noLabel rfl decoded nonzero free)
  have checks := modifyEdit_staged (units := s.mgmt.params.unit) rfl decoded nonzero found
  refine ⟨fun pinned => ?_, fun unpinned arrival kinds action isArrival isKinds isAction => ?_⟩
  · exact refused rfl (checks.trans (if_pos ((pinnedLabel_iff label s).1 pinned)))
  have applied (f : Entry) : edit.apply f = newEntry f arrival kinds action :=
    apply_of_editOfImage decoded isArrival isKinds isAction f
  simp only [applied] at checks
  rw [if_neg (by rw [pinnedLabel_eq_false unpinned]; nofun)] at checks
  refine ⟨fun invalid => ?_, fun valid => ?_⟩
  · rw [validEntry_iff] at invalid
    exact refused rfl (checks.trans (if_neg invalid))
  · rw [validEntry_iff] at valid
    exact congrArg _ (takeCommand_editTaken takes rfl (checks.trans (if_pos valid)))

end Sys2Proof
end

section
/-! PROOFS. The commands that set one register or restart a link: NOP (R126), SET_MANAGERS and LOCK_MANAGERS
(R115), SET_APERTURE (R109), LINK_RESTART (R125); and the other two ways into TRAINING (R169, R182). -/

namespace Sys2Proof

open Machine

/-- Settles O37: a NOP finishes at once, wherever it stands. -/
theorem nopOnlyAnswers : Obligations.NopOnlyAnswers :=
  ⟨fun _ _ _ takes => congrArg _ (takeCommand_eq (run := fun _ => runNop) takes rfl rfl),
    fun _ _ => if_neg (by nofun)⟩

/-! ### SET_MANAGERS (R115) -/

section SetManagers

variable {body : List Byte} {s : State}

theorem runSetManagers_locked (locked : s.mgmt.locked = true) :
    runSetManagers body s = (⟨.locked, 0⟩, s) :=
  if_pos locked

/-- Without the manager lock, only the empty set is refused. -/
theorem runSetManagers_unlocked (unlocked : s.mgmt.locked = false) : runSetManagers body s =
    if (BitVec.ofNat 32 (field body 0 4) : UnitSet) = 0 then (⟨.badField, 0⟩, s)
    else (⟨.done, 0⟩,
      { s with mgmt := { s.mgmt with managers := BitVec.ofNat 32 (field body 0 4) } }) :=
  if_neg (by simp [unlocked])

end SetManagers

/-! ### SET_APERTURE (R109) -/

section SetAperture

variable {body : List Byte} {s : State} {base : Addr} (named : BitVec.ofNat 48 (field body 0 6) = base)

include named

theorem runSetAperture_refused (bad : ¬(base.toNat % 0x10000 = 0 ∧ base.toNat + 0x10000 ≤ 2 ^ 48)) :
    runSetAperture body s = (⟨.badField, 0⟩, s) := by
  subst named
  exact if_neg bad

/-- A base that is allowed becomes the pending move, unless it is in force and no move is pending. -/
theorem runSetAperture_allowed (allowed : base.toNat % 0x10000 = 0 ∧ base.toNat + 0x10000 ≤ 2 ^ 48) :
    runSetAperture body s =
      if base = s.mgmt.apertureBase ∧ s.mgmt.pendingBase = none then (⟨.done, 0⟩, s)
      else (⟨.done, 0⟩, { s with mgmt := { s.mgmt with pendingBase := some base } }) := by
  subst named
  exact if_pos allowed

end SetAperture

/-- Settles O38, by the conditions of each command in their order. -/
theorem managersAndApertureAreSet : Obligations.ManagersAndApertureAreSet := by
  refine ⟨fun s slot rest body => ⟨fun takes => ⟨fun locked => ?_, fun unlocked empty => ?_,
    fun unlocked nonempty => ?_⟩, fun takes => ?_⟩, fun s slot rest body takes => ⟨fun bad => ?_,
    fun allowed inForce still => ?_, fun allowed moves => ?_⟩⟩
  · exact congrArg _ (takeCommand_eq takes (runSetManagers_locked locked) rfl)
  · exact congrArg _ (takeCommand_eq takes
      ((runSetManagers_unlocked unlocked).trans (if_pos empty)) rfl)
  · exact congrArg _ (takeCommand_eq takes
      ((runSetManagers_unlocked unlocked).trans (if_neg nonempty)) rfl)
  · exact congrArg _ (takeCommand_eq (run := fun _ => runLockManagers) takes rfl rfl)
  · exact congrArg _ (takeCommand_eq takes (runSetAperture_refused rfl bad) rfl)
  · exact congrArg _ (takeCommand_eq takes
      ((runSetAperture_allowed rfl allowed).trans (if_pos ⟨inForce, still⟩)) rfl)
  · exact congrArg _ (takeCommand_eq takes
      ((runSetAperture_allowed rfl allowed).trans (if_neg (not_and_or.2 moves))) rfl)

/-! ### TRAINING begins (R125, R169, R182) -/

theorem enterTraining_eq (p : Port) (s : State) : enterTraining p s = trainingBegun p s := rfl

theorem portOfCode_d_iff (b : Byte) : portOfCode b = some .d ↔ b = 2 := by
  unfold portOfCode
  split_ifs with one two
  · simp [one]
  · simp [two]
  · exact iff_of_false nofun two

theorem runLinkRestart_eq (body : List Byte) (s : State) : runLinkRestart body s =
    if byteAt body 0 = 2 ∧ (s.port .d).state = .faulted then (⟨.done, 0⟩, trainingBegun .d s)
    else (⟨.badField, 0⟩, s) := by
  simp only [runLinkRestart, portOfCode_d_iff]
  rfl

/-- Settles O4: each way into TRAINING, by the test that its command makes. -/
theorem trainingBegins : Obligations.TrainingBegins := by
  have due (s : State) := dueHoldOff_iff (reached_iff s.timebase)
  refine ⟨fun p s => ⟨fun offline => ?_, fun left => ?_⟩, fun s deadline faulted runs past => ?_,
    fun s early => ?_, fun s slot rest body takes => ⟨fun portD faulted => ?_, fun other => ?_⟩⟩
  · exact congrArg _ (if_pos offline)
  · exact congrArg _ (if_neg left)
  · exact congrArg _ (if_pos ((due s).2 ⟨faulted, deadline, runs, past⟩))
  · refine congrArg _ (if_neg fun isDue => ?_)
    obtain ⟨faulted, deadline, runs, past⟩ := (due s).1 isDue
    exact early faulted deadline runs past
  · exact congrArg _ (takeCommand_eq takes
      ((runLinkRestart_eq body s).trans (if_pos ⟨portD, faulted⟩)) rfl)
  · exact congrArg _ (takeCommand_eq takes ((runLinkRestart_eq body s).trans (if_neg other)) rfl)

end Sys2Proof
end

section
/-! PROOFS. The accesses at the head of the command queue: those that execute nothing (R110, R114, R119), and
the placing of a reply (R111, R116, R117). -/

namespace Sys2Proof

open Machine

/-! ### What an access is (R110, R114, Table 6-1) -/

section Classify

variable {managers : UnitSet} {slot : CommandSlot}

theorem classify_notManager (outside : managers.getLsbD slot.source.toNat = false) :
    classify managers slot = .notManager :=
  if_pos outside

variable (manager : managers.getLsbD slot.source.toNat = true)

include manager

theorem classify_command (write : slot.kind = .writeAck)
    (within : slot.offset + slot.length.toNat - 1 ≤ 0xFF) :
    classify managers slot = .command slot.payload := by
  simp [classify, managers_eq, manager, write, liesIn, within]

theorem classify_areaRead (read : slot.kind = .read)
    (noPop : ¬(slot.offset = 0x4000 ∧ slot.length.toNat = 32)) :
    classify managers slot = match areaOf slot.offset slot.length.toNat with
      | some area => .read area slot.offset slot.length.toNat
      | none => .unsupported := by
  simp only [classify, managers_eq, manager, read, noPop]
  rfl

theorem classify_pop (read : slot.kind = .read) (offset : slot.offset = 0x4000)
    (length : slot.length = 32) : classify managers slot = .pop := by
  simp [classify, managers_eq, manager, read, offset, length]

/-- A write outside the command window, or an access that neither writes nor reads. -/
theorem classify_notRead (noCommand : ¬(slot.kind = .writeAck ∧
      slot.offset + slot.length.toNat - 1 ≤ 0xFF)) (noRead : slot.kind ≠ .read) :
    classify managers slot = .unsupported := by
  by_cases write : slot.kind = .writeAck
  · have past : ¬slot.offset + slot.length.toNat - 1 ≤ 0xFF := fun within => noCommand ⟨write, within⟩
    simp [classify, managers_eq, manager, write, liesIn, past]
  · simp [classify, managers_eq, manager, write, noRead]

end Classify

theorem areaOf_eq_none {o n : Nat}
    (outside : ∀ area, ¬(areaFirst area ≤ o ∧ o + n - 1 ≤ areaLast area)) : areaOf o n = none := by
  rw [areaFirst_eq, areaLast_eq] at outside
  exact List.find?_eq_none.2 fun area _ => by simpa [liesIn] using outside area

/-! ### The head of the command queue -/

section Head

variable {s : State} {slot : CommandSlot} {rest : List CommandSlot} (free : s.hold.release = none)
  (queue : s.mgmt.queue = slot :: rest) (waiting : slot.state = .waiting)

include free queue waiting

theorem waitingHead_eq : waitingHead s = some slot := by
  simp [waitingHead, free, queue, waiting]

theorem headAccess_eq : headAccess s = some (classify s.mgmt.managers slot) := by
  rw [headAccess, waitingHead_eq free queue waiting, Option.map_some]

theorem takeNotManager_eq (outside : s.mgmt.managers.getLsbD slot.source.toNat = false) :
    takeNotManager s =
      setHeadState (.answerReady ⟨.refused, [], false⟩) (noticed (notManagerNotice slot s) s) := by
  unfold takeNotManager
  rw [waitingHead_eq free queue waiting, headAccess_eq free queue waiting, classify_notManager outside]
  rfl

theorem takeMalformed_eq (manager : s.mgmt.managers.getLsbD slot.source.toNat = true)
    (write : slot.kind = .writeAck) (within : slot.offset + slot.length.toNat - 1 ≤ 0xFF)
    (malformed : parseBlock slot.payload = none) :
    takeMalformed s = refusedWith slot rest .malformed s := by
  unfold takeMalformed headCommand
  rw [headAccess_eq free queue waiting, classify_command manager write within]
  simp only [malformed]
  exact answerHead_eq _ _ queue

theorem takeUnsupported_eq (outside : classify s.mgmt.managers slot = .unsupported) :
    takeUnsupported s = setHeadState (.answerReady ⟨.unsupported, [], false⟩) s := by
  unfold takeUnsupported
  rw [headAccess_eq free queue waiting, outside]

end Head

/-- Settles O45, by the class of the access at the head. -/
theorem headAccessIsTurnedAway : Obligations.HeadAccessIsTurnedAway := by
  refine ⟨fun bytes code body => (blockOf_iff bytes code body).symm,
    fun s slot rest free queue waiting => ⟨fun outside => ?_, fun manager =>
      ⟨fun write within noBlock => ?_, fun noCommand noRead => ?_⟩⟩⟩
  · refine congrArg _ ((takeNotManager_eq free queue waiting outside).trans ?_)
    exact setHeadState_eq _ queue
  · exact congrArg _ (takeMalformed_eq free queue waiting manager write within.2
      ((no_blockOf_iff _).1 noBlock))
  · refine congrArg _ ((takeUnsupported_eq free queue waiting ?_).trans (setHeadState_eq _ queue))
    by_cases read : slot.kind = .read
    · have outside : ∀ area, ¬(areaFirst area ≤ slot.offset ∧
          slot.offset + slot.length.toNat - 1 ≤ areaLast area) := by
        intro area lies
        refine noRead ⟨read, ?_⟩
        cases area with
        | status => exact .inl lies
        | active => exact .inr (.inl lies)
        | staging => exact .inr (.inr (.inl lies))
        | hold => exact .inr (.inr (.inr (.inl lies)))
      have noPop : ¬(slot.offset = 0x4000 ∧ slot.length.toNat = 32) := fun ⟨offset, length⟩ =>
        noRead ⟨read, .inr (.inr (.inr (.inr ⟨offset, BitVec.eq_of_toNat_eq length⟩)))⟩
      rw [classify_areaRead manager read noPop, areaOf_eq_none outside]
    · exact classify_notRead manager
        (fun ⟨write, within⟩ => noCommand ⟨write, Nat.zero_le _, within⟩) read

end Sys2Proof
end

section
/-! PROOFS. What a record shows: a field read back from the bytes written for it, and the records that
replies, readback areas and notices carry (Section 11.3). -/

namespace Sys2Proof

open Machine

/-! ### Reading a field back

A record is written as one part after the other. A reader passes over the parts before its own, and takes the
bytes of its own part. -/

section Read

variable {part rest : List Byte} {o n : Nat} {b : Byte}

@[simp] theorem byteAt_cons_zero : byteAt (b :: rest) 0 = b := rfl

@[simp] theorem byteAt_cons_succ : byteAt (b :: rest) (o + 1) = byteAt rest o := rfl

@[simp] theorem field_cons_succ : field (b :: rest) (o + 1) n = field rest o n := rfl

@[simp] theorem byteAt_append_right (past : part.length ≤ o) :
    byteAt (part ++ rest) o = byteAt rest (o - part.length) :=
  List.getD_append_right _ _ _ _ past

@[simp] theorem field_append_right (past : part.length ≤ o) :
    field (part ++ rest) o n = field rest (o - part.length) n := by
  rw [field, List.drop_append, List.drop_eq_nil_of_le past, List.nil_append, field]

theorem field_append_left (inside : o + n ≤ part.length) : field (part ++ rest) o n = field part o n := by
  rw [field, List.drop_append_of_le_length (by omega),
    List.take_append_of_le_length (by rw [List.length_drop]; omega), field]

theorem field_toLE (v : Nat) : field (toLE n v ++ rest) 0 n = v % 256 ^ n := by
  rw [field, List.drop_zero, List.take_left' (toLE_length n v), ofLE_toLE]

@[simp] theorem field_word {w : Nat} (x : BitVec w) (fits : 2 ^ w ≤ 256 ^ n) :
    field (toLE n x.toNat ++ rest) 0 n = x.toNat :=
  (field_toLE _).trans (Nat.mod_eq_of_lt (Nat.lt_of_lt_of_le x.isLt fits))

@[simp] theorem unitByte_toNat (u : UnitNo) : (unitByte u).toNat = u.toNat :=
  BitVec.toNat_setWidth_of_le (by decide)

@[simp] theorem tagByte_toNat (t : Tag) : (tagByte t).toNat = t.toNat :=
  BitVec.toNat_setWidth_of_le (by decide)

theorem byteAt_past (past : part.length ≤ o) : byteAt part o = 0 :=
  List.getD_eq_default _ _ past

/-- The filling of a record reads as the bytes past its end do: 0 (R187). -/
theorem byteAt_padTo : byteAt (padTo n part) o = byteAt part o := by
  by_cases inside : o < part.length
  · exact List.getD_append _ _ _ _ inside
  · rw [byteAt_past (Nat.not_lt.1 inside), padTo, byteAt_append_right (Nat.not_lt.1 inside), byteAt,
      List.getD, List.getElem?_replicate]
    split_ifs <;> rfl

theorem byteAt_take (inside : o < n) : byteAt (part.take n) o = byteAt part o := by
  simp [byteAt, List.getD, inside]

end Read

/-! ### Results (R120, R186) and notices (Table 11-9) -/

theorem showsResult (r : Result) (index : Nat) : ShowsResult (resultBytes r index) r index := by
  have number : resultNumber r.code = r.code.code := congrFun resultNumber_eq _
  have value : toLE 4 r.value.toNat = toLE 4 r.value.toNat ++ [] := (List.append_nil _).symm
  unfold ShowsResult resultBytes
  rw [number, value]
  simp [-List.append_nil, field_one]

theorem showsNotice (n : Notice) : ShowsNotice (noticeRecord n) n := by
  have number : noticeNumber n.req.kind = n.req.kind.code := congrFun noticeNumber_eq _
  have rest (i : Nat) (past : 23 ≤ i) : byteAt (noticeRecord n) i = 0 :=
    byteAt_padTo.trans (byteAt_past (by simpa using past))
  refine ⟨padTo_length _ _ (by simp), ?_, ?_, ?_, ?_, ?_, ?_, ?_, ?_, ?_, ?_, ?_, rest⟩
  case refine_2 =>
    change optPortCode n.req.port = _
    rcases n.req.port with _ | ⟨_ | _⟩ <;> rfl
  all_goals simp [noticeRecord, padTo, field_one, number]

/-! ### Entries (Table 11-5) and list readback records (Table 11-7) -/

theorem arrivalCode_code (a : Arrival) : ArrivalCode a.code a := by
  simp only [arrivalCode_iff]
  cases a <;> rfl

theorem kindsCode_code (k : Kinds) : KindsCode k.code k := by
  simp only [kindsCode_iff]
  cases k <;> rfl

theorem actionCode_code (a : Action) : ActionCode a.code a := by
  simp only [actionCode_iff]
  cases a <;> rfl

@[simp] theorem flagBit_getElem (flag : Bool) (bit i : Nat) (inside : i < 8) :
    (flagBit flag bit)[i] = (flag && decide (i = bit)) := by
  cases flag <;> simp [flagBit]

/-- The bytes that open with an entry's image show it. -/
theorem showsEntry (e : Entry) (more : List Byte) : ShowsEntry (entryImage e ++ more) e := by
  unfold ShowsEntry PresenceAllowed bitAt entryImage
  simp [field_one, field_toLE e.size, arrivalCode_code, kindsCode_code, actionCode_code]

/-- A list readback record, from its parts. -/
theorem showsListed_of_parts {record : List Byte} {e : Entry} {hits : BitVec 32} {origin : Gen}
    (parts : record = padTo 64 (entryImage e ++ toLE 4 hits.toNat ++ toLE 2 origin.toNat)) :
    ShowsListed record e hits origin := by
  subst parts
  have rest (i : Nat) (past : 46 ≤ i) :
      byteAt (padTo 64 (entryImage e ++ toLE 4 hits.toNat ++ toLE 2 origin.toNat)) i = 0 :=
    byteAt_padTo.trans (byteAt_past (by simpa using past))
  refine ⟨padTo_length _ _ (by simp), ?_, ?_, ?_, rest⟩
  · simpa [padTo] using showsEntry e _
  all_goals simp [padTo]

theorem showsListed_active (a : ActiveEntry) : ShowsListed (activeRecord a) a.entry a.hits a.origin :=
  showsListed_of_parts rfl

/-- The hit count and count origin of a staging record are the filling of the record (R187). -/
theorem showsListed_staging (e : Entry) : ShowsListed (stagingRecord e) e 0 0 :=
  showsListed_of_parts (by simp [stagingRecord, padTo, toLE])

/-! ### Hold records (Table 11-8) -/

theorem showsHeld (h : HoldSlot) : ShowsHeld (holdRecord h) h := by
  have kind : kindByte h.request.kind = h.request.kind.code := congrFun kindByte_eq _
  have payload (i : Nat) (inside : i < 32) :
      byteAt (holdRecord h) (32 + i) = byteAt h.request.payload i := by
    rw [holdRecord, byteAt_padTo, byteAt_append_right (by simp), ← byteAt_take inside]
    simp
  refine ⟨holdRecord_length h, ?_, fun deadline held => ?_, fun status k answering => ?_, ?_, ?_, ?_, ?_,
    ?_, ?_, ?_, ?_, ?_, ?_, ?_, payload⟩
  case refine_2 => simp [holdRecord, padTo, held]
  case refine_3 =>
    rw [holdRecord, answering]
    cases status <;> simp [padTo, field_toLE 0, AnswerStatus.reply, ReplyStatus.code]
  case refine_4 =>
    change portCode h.origin = _
    cases h.origin <;> rfl
  all_goals simp [holdRecord, padTo, field_one, kind]

end Sys2Proof
end

section
/-! PROOFS. The status block field by field (Table 11-10). -/

namespace Sys2Proof

open Machine

/-! ### The groups of the status block -/

section Groups

variable {block group : List Byte} {base len o n : Nat} (slice : (block.drop base).take len = group)

include slice

theorem byteAt_of_slice (after : base ≤ o) (before : o < base + len) :
    byteAt block o = byteAt group (o - base) := by
  rw [← slice, byteAt_take (by omega), byteAt, List.getD, byteAt, List.getD, List.getElem?_drop,
    Nat.add_sub_cancel' after]

theorem field_of_slice (after : base ≤ o) (before : o + n ≤ base + len) :
    field block o n = field group (o - base) n := by
  rw [← slice, field, field, List.drop_take, List.take_take, List.drop_drop, Nat.add_sub_cancel' after,
    Nat.min_eq_left (by omega)]

end Groups

@[simp] theorem offerBytes_length (o : Offer) : (offerBytes o).length = 2 := rfl

@[simp] theorem defaultBytes_length (a : DefaultAction) : (defaultBytes a).length = 2 := by
  cases a <;> rfl

@[simp] theorem shownRate_length (lp : LinkPort) : lp.shownRate.length = 2 := by
  unfold LinkPort.shownRate
  cases lp.negotiated <;> split_ifs <;> rfl

@[simp] theorem commitGroup_length (s : State) : (commitGroup s).length = 0x14 := by simp [commitGroup]

@[simp] theorem countGroup_length (s : State) : (countGroup s).length = 0xF := by simp [countGroup]

@[simp] theorem portGroup_length (lp : LinkPort) : (portGroup lp).length = 5 := by simp [portGroup]

@[simp] theorem managementGroup_length (s : State) : (managementGroup s).length = 0x34 := by
  simp [managementGroup]

@[simp] theorem statusBlock_length (s : State) : (statusBlock s).length = 128 := by
  simp [statusBlock, padTo_length]

section Slices

variable (s : State)

theorem commit_slice : ((statusBlock s).drop 0).take 0x20 = padTo 0x20 (commitGroup s) := by
  simp [statusBlock, padTo_length]

theorem count_slice : ((statusBlock s).drop 0x20).take 0x10 = padTo 0x10 (countGroup s) := by
  simp [statusBlock, padTo_length]

theorem portU_slice : ((statusBlock s).drop 0x30).take 0x8 = padTo 0x8 (portGroup s.ports.u) := by
  simp [statusBlock, padTo_length, List.drop_append, List.drop_of_length_le]

theorem portD_slice : ((statusBlock s).drop 0x38).take 0x8 = padTo 0x8 (portGroup s.ports.d) := by
  simp [statusBlock, padTo_length, List.drop_append, List.drop_of_length_le]

theorem management_slice :
    ((statusBlock s).drop 0x40).take 0x40 = padTo 0x40 (managementGroup s) := by
  simp [statusBlock, padTo_length, List.drop_append, List.drop_of_length_le, List.take_of_length_le]

end Slices

theorem lateCauses_code_toNat (late : LateCauses) : late.code.toNat =
    (if late.timeout then 1 else 0) + (if late.linkDown then 2 else 0) + (if late.aborted then 4 else 0) +
      (if late.skipped then 8 else 0) := by
  obtain ⟨timeout, linkDown, aborted, skipped⟩ := late
  revert timeout linkDown aborted skipped
  decide

/-- The cooling indicator is a byte of the Commit Status (R92). -/
theorem showsCommit (s : State) : ShowsCommit (statusBlock s) s := by
  have cools := coolingIndicator_iff s
  have state : s.commit.state.code = if s.commit.state = .draining then 1 else 0 := by
    cases s.commit.state <;> rfl
  have rest (i : Nat) (past : 0x14 ≤ i) : byteAt (padTo 0x20 (commitGroup s)) i = 0 :=
    byteAt_padTo.trans (byteAt_past (by simpa using past))
  unfold ShowsCommit
  simp +contextual only [byteAt_of_slice (commit_slice s), field_of_slice (commit_slice s), Nat.zero_le,
    Nat.zero_add, Nat.sub_zero, Nat.reduceLT, Nat.reduceLeDiff, Nat.reduceAdd]
  refine ⟨?_, fun cool => ?_, fun still => ?_, ?_, ?_, ?_, ?_, ?_, ?_, ?_, ?_, ?_, ?_,
    fun i past _ => rest i past⟩
  case refine_1 => simp [commitGroup, padTo, state]
  case refine_2 => simp [commitGroup, padTo, boolByte, cools.2 cool]
  case refine_3 => simp [commitGroup, padTo, boolByte, mt cools.1 still]
  case refine_7 =>
    change (s.commit.fences.get .u).code = _
    cases s.commit.fences.get .u <;> rfl
  case refine_8 =>
    change (s.commit.fences.get .d).code = _
    cases s.commit.fences.get .d <;> rfl
  case refine_9 => simp [commitGroup, padTo, field_one, lateCauses_code_toNat]
  case refine_11 =>
    change s.commit.lastOutcome.code = _
    cases s.commit.lastOutcome <;> rfl
  all_goals simp [commitGroup, padTo, boolByte, State.generation, field_one]

theorem showsCounts (s : State) : ShowsCounts (statusBlock s) s := by
  have closing (st : TrackState) : (!st.isOpen) = decide (st ≠ .awaiting ∧ st ≠ .orphaned) := by
    cases st <;> rfl
  unfold ShowsCounts
  simp only [byteAt_of_slice (count_slice s), field_of_slice (count_slice s), Nat.reduceLT, Nat.reduceLeDiff,
    Nat.reduceAdd, Nat.reduceSub]
  simp [countGroup, padTo, Tracker.counts, field_one, closing, isHeld_eq]

theorem lanesByte (l : Lanes) : l.count % 256 = laneCount l := by
  cases l <;> rfl

theorem rateByte (r : Rate) : r.gbit % 256 = gigabits r := by
  cases r <;> rfl

/-- The group of a port shows it, wherever the group stands. -/
theorem showsPort_of_slice {block : List Byte} {off : Nat} {lp : LinkPort}
    (slice : (block.drop off).take 8 = padTo 0x8 (portGroup lp)) : ShowsPort block off lp := by
  have shown : ∃ lanes rate, lp.shownRate = [lanes, rate] ∧
      lanes.toNat = (match if lp.state = .up ∨ lp.state = .retraining then lp.negotiated else none with
        | none => 0
        | some o => laneCount o.lanes) ∧
      rate.toNat = (match if lp.state = .up ∨ lp.state = .retraining then lp.negotiated else none with
        | none => 0
        | some o => gigabits o.rate) := by
    unfold LinkPort.shownRate
    split_ifs
    · cases lp.negotiated with
      | none => exact ⟨0, 0, rfl, rfl, rfl⟩
      | some o => exact ⟨_, _, rfl, lanesByte _, rateByte _⟩
    · exact ⟨0, 0, rfl, rfl, rfl⟩
  obtain ⟨lanes, rate, rates, lanesShown, rateShown⟩ := shown
  have group : padTo 0x8 (portGroup lp) = [lp.state.code, lanes, rate, match lp.partnerUnit with
        | none => 0xFF
        | some n => unitByte n, BitVec.ofNat 8 lp.attempts, 0, 0, 0] := by
    rw [portGroup, rates]
    rfl
  unfold ShowsPort
  simp only [byteAt_of_slice slice, field_of_slice slice, group, Nat.le_refl, Nat.le_add_right,
    Nat.lt_add_right_iff_pos, Nat.add_assoc, Nat.add_le_add_iff_left, Nat.add_lt_add_iff_left, Nat.sub_self,
    Nat.add_sub_cancel_left, Nat.reduceLT, Nat.reduceLeDiff, Nat.reduceAdd, field_one, byteAt_cons_succ,
    byteAt_cons_zero]
  refine ⟨?_, lanesShown, rateShown, ?_, rfl, trivial, trivial, trivial⟩
  · cases lp.state <;> rfl
  · cases lp.partnerUnit with
    | none => rfl
    | some n => exact unitByte_toNat n

theorem showsManagement (s : State) : ShowsManagement (statusBlock s) s := by
  have rest (i : Nat) (past : 0x74 ≤ i) : byteAt (statusBlock s) i = 0 := by
    by_cases inside : i < 0x80
    · rw [byteAt_of_slice (management_slice s) (by omega) inside, byteAt_padTo]
      exact byteAt_past (by simp; omega)
    · exact byteAt_past (by simpa using inside)
  have shownDefault (a : DefaultAction) : ∃ code target, defaultBytes a = [code, target] ∧ (match a with
      | .refuse => code = 1 ∧ target = 0
      | .pass unit => code = 2 ∧ target.toNat = unit.toNat) := by
    cases a <;> simp [defaultBytes]
  obtain ⟨codeU, targetU, bytesU, shownU⟩ := shownDefault s.steering.defaults.u
  obtain ⟨codeD, targetD, bytesD, shownD⟩ := shownDefault s.steering.defaults.d
  unfold ShowsManagement
  simp only [byteAt_of_slice (management_slice s), field_of_slice (management_slice s), Nat.reduceLT,
    Nat.reduceLeDiff, Nat.reduceAdd, Nat.reduceSub]
  simpa [managementGroup, padTo, field_one, boolByte, bytesU, bytesD, offerBytes, Offers, Duo.get, lanesByte,
    rateByte, Option.isSome_iff_ne_none] using ⟨shownU, shownD, rest⟩

/-! ### The bytes of an area read (R111) -/

section Records

variable {f : Nat → List Byte} (size : ∀ k, (f k).length = 64)

include size

theorem flatMap_range_length (k : Nat) : ((List.range k).flatMap f).length = 64 * k := by
  induction k with
  | zero => rfl
  | succ k ih => simp [List.range_succ, List.flatMap_append, ih, size, Nat.mul_succ]

/-- A byte of records that stand one after the other is the byte of its own record. -/
theorem flatMap_range_getElem? {k i : Nat} (inside : i < 64 * k) :
    ((List.range k).flatMap f)[i]? = (f (i / 64))[i % 64]? := by
  induction k with
  | zero => omega
  | succ k ih =>
    rw [List.range_succ, List.flatMap_append, List.flatMap_singleton]
    by_cases before : i < 64 * k
    · rw [List.getElem?_append_left (by rwa [flatMap_range_length size]), ih before]
    · rw [List.getElem?_append_right (by rw [flatMap_range_length size]; omega), flatMap_range_length size,
        show i / 64 = k by omega, show i % 64 = i - 64 * k by omega]

end Records

/-- The record of a position of a list, or zeros past the list's end. -/
theorem padTo_record {α : Type} {record : α → List Byte} (size : ∀ a, (record a).length = 64)
    (l : List α) (k : Nat) : padTo 64 ((l[k]?.map record).getD []) = (l.map record).getD k (List.replicate 64 0) := by
  rw [List.getD, List.getElem?_map]
  cases l[k]? with
  | none => rfl
  | some a => simp [padTo, size]

theorem recordAt_length {area : Area} (records : area ≠ .status) (s : State) (k : Nat) :
    (recordAt area s k).length = 64 := by
  cases area with
  | status => exact absurd rfl records
  | active => exact padTo_length _ _ (by cases s.steering.active[k]? <;> simp)
  | staging => exact padTo_length _ _ (by cases s.steering.staging[k]? <;> simp)
  | hold => exact padTo_length _ _ (by cases s.hold.slots[k]? <;> simp)

theorem readArea_zero (area : Area) (o : Nat) (s : State) : readArea area o 0 s = [] := by
  cases area <;> rfl

/-- A readback area gives the bytes of its records, position after position. -/
theorem readArea_records {area : Area} (records : area ≠ .status) (o n : Nat) (s : State) :
    (readArea area o n s).length = n ∧ ∀ i < n, (readArea area o n s)[i]? =
      (recordAt area s ((o - areaFirst area + i) / 64))[(o - areaFirst area + i) % 64]? := by
  have read : readArea area o n s = (((List.range ((o - areaFirst area + n - 1) / 64 -
      (o - areaFirst area) / 64 + 1)).flatMap fun i => recordAt area s ((o - areaFirst area) / 64 + i)).drop
        ((o - areaFirst area) % 64)).take n := by
    rw [areaFirst_eq]
    cases area with
    | status => exact absurd rfl records
    | active | staging | hold => rfl
  have size (k : Nat) := recordAt_length records s ((o - areaFirst area) / 64 + k)
  generalize o - areaFirst area = off at read size ⊢
  rw [read]
  refine ⟨?_, fun i inside => ?_⟩
  · rw [List.length_take, List.length_drop, flatMap_range_length size]
    omega
  · rw [List.getElem?_take_of_lt inside, List.getElem?_drop, flatMap_range_getElem? size (by omega),
      show off / 64 + (off % 64 + i) / 64 = (off + i) / 64 by omega,
      show (off % 64 + i) % 64 = (off + i) % 64 by omega]

theorem readArea_status {o n : Nat} (s : State) (within : o - areaFirst .status + n ≤ 128) :
    (readArea .status o n s).length = n ∧
      ∀ i < n, (readArea .status o n s)[i]? = (statusBlock s)[o - areaFirst .status + i]? := by
  have read : readArea .status o n s = ((statusBlock s).drop (o - areaFirst .status)).take n := rfl
  rw [read]
  refine ⟨?_, fun i inside => ?_⟩
  · rw [List.length_take, List.length_drop, statusBlock_length]
    omega
  · rw [List.getElem?_take_of_lt inside, List.getElem?_drop]

/-- Settles O48: the bytes of each area, and what its records show. -/
theorem areaReadGivesRecords : Obligations.AreaReadGivesRecords := by
  refine ⟨fun s area o n first last => ?_, showsListed_active, showsListed_staging, showsHeld,
    fun s => ⟨statusBlock_length s, showsCommit s, showsCounts s, showsPort_of_slice (portU_slice s),
      showsPort_of_slice (portD_slice s), showsManagement s⟩⟩
  cases area with
  | status =>
    exact readArea_status s (by simp only [areaFirst, areaLast] at first last ⊢; omega)
  | active =>
    obtain ⟨length, bytes⟩ := readArea_records (area := .active) nofun o n s
    exact ⟨length, fun i inside => (bytes i inside).trans
      (by rw [recordAt, padTo_record activeRecord_length])⟩
  | staging =>
    obtain ⟨length, bytes⟩ := readArea_records (area := .staging) nofun o n s
    exact ⟨length, fun i inside => (bytes i inside).trans
      (by rw [recordAt, padTo_record stagingRecord_length])⟩
  | hold =>
    obtain ⟨length, bytes⟩ := readArea_records (area := .hold) nofun o n s
    exact ⟨length, fun i inside => (bytes i inside).trans
      (by rw [recordAt, padTo_record holdRecord_length])⟩

end Sys2Proof
end

section
/-! PROOFS. The reply of the access at the head of the command queue (R111, R116, R117), and the ways a notice
leaves: by a pop (R113) and by an emission (R134). -/

namespace Sys2Proof

open Machine

/-! ### Placing a reply -/

/-- The head is answered with a reply that performs no warm reset, or is left behind one (R116, R127). -/
def Replies (slot : CommandSlot) (status : ReplyStatus) (payload : List Byte) : Prop :=
  slot.state = .answerReady ⟨status, payload, false⟩ ∨
    slot.state = .aborting ∧ status = .aborted ∧ payload = []

section Place

variable {s : State} {slot : CommandSlot} {rest : List CommandSlot} (queue : s.mgmt.queue = slot :: rest)

include queue

theorem offerReply_taken {status : ReplyStatus} {payload : List Byte} (replies : Replies slot status payload)
    (takes : TakesOffer .u .c s) : offerReply s = accessReplied slot rest status payload s := by
  rw [takesOffer_iff] at takes
  rw [← placeReply_eq status payload queue]
  unfold offerReply
  rcases replies with ready | ⟨aborting, rfl, rfl⟩
  · simp only [queue, takes, if_true, ready]
    rfl
  · simp only [queue, takes, if_true, aborting]

theorem offerReply_waits (full : ¬TakesOffer .u .c s) : offerReply s = s := by
  rw [takesOffer_iff] at full
  unfold offerReply
  simp only [queue, if_neg full]

/-- A reply that stands at the head already is placed, or waits. -/
theorem commandReplyPlacement_replies {status : ReplyStatus} {payload : List Byte}
    (replies : Replies slot status payload) :
    (TakesOffer .u .c s →
      exec .commandReplyPlacement s = .next (accessReplied slot rest status payload s)) ∧
    (¬TakesOffer .u .c s → exec .commandReplyPlacement s = .next s) := by
  have started : slot.state ≠ .waiting := by
    rcases replies with ready | ⟨aborting, _⟩
    · rw [ready]; nofun
    · rw [aborting]; nofun
  have captured : captureRead s = s := captureRead_eq queue started
  have placement : exec .commandReplyPlacement s = .next (offerReply s) :=
    congrArg (fun t => Host.Outcome.next (offerReply t)) captured
  rw [placement]
  exact ⟨fun takes => congrArg _ (offerReply_taken queue replies takes),
    fun full => congrArg _ (offerReply_waits queue full)⟩

end Place

/-! ### Area reads (R111, Table 6-1) -/

/-- The area that serves a range gives the bytes of any area that the range lies in: there is only one, but
for an empty range, which has none. -/
theorem areaOf_serves {area : Area} {o n : Nat} (first : areaFirst area ≤ o)
    (last : o + n - 1 ≤ areaLast area) (s : State) :
    ∃ serving, areaOf o n = some serving ∧ readArea serving o n s = readArea area o n s := by
  rcases Nat.eq_zero_or_pos n with rfl | nonempty
  · cases serves : areaOf o 0 with
    | some serving => exact ⟨serving, rfl, by rw [readArea_zero, readArea_zero]⟩
    | none =>
      have outside := List.find?_eq_none.1 serves area (by cases area <;> decide)
      rw [areaFirst_eq] at first
      rw [areaLast_eq] at last
      exact absurd (by simp only [liesIn, first, last, decide_true, Bool.and_self]) outside
  · exact ⟨area, areaOf_range nonempty first last, rfl⟩

/-- The offset of a notice pop lies in no area that is read. -/
theorem not_pop_of_area {area : Area} {o n : Nat} (first : areaFirst area ≤ o)
    (last : o + n - 1 ≤ areaLast area) : ¬(o = 0x4000 ∧ n = 32) := by
  rintro ⟨rfl, rfl⟩
  cases area <;> simp only [areaFirst, areaLast] at first last <;> omega

section Head

variable {s : State} {slot : CommandSlot} {rest : List CommandSlot} (queue : s.mgmt.queue = slot :: rest)
  (free : s.hold.release = none) (waiting : slot.state = .waiting)
  (manager : s.mgmt.managers.getLsbD slot.source.toNat = true) (read : slot.kind = .read)

include queue free waiting manager read

theorem captureRead_area {area : Area} (first : areaFirst area ≤ slot.offset)
    (last : slot.offset + slot.length.toNat - 1 ≤ areaLast area) : captureRead s =
      setHeadState (.answerReady ⟨.ok, readArea area slot.offset slot.length.toNat s, false⟩) s := by
  obtain ⟨serving, serves, same⟩ := areaOf_serves first last s
  have access : headAccess s = some (.read serving slot.offset slot.length.toNat) := by
    rw [headAccess_eq free queue waiting, classify_areaRead manager read (not_pop_of_area first last), serves]
  unfold captureRead
  rw [access]
  dsimp only
  rw [same]

/-- An area read is captured, and its reply is placed or waits. -/
theorem commandReplyPlacement_area {area : Area} (first : areaFirst area ≤ slot.offset)
    (last : slot.offset + slot.length.toNat - 1 ≤ areaLast area) :
    let bytes := readArea area slot.offset slot.length.toNat s
    (TakesOffer .u .c s →
      exec .commandReplyPlacement s = .next (accessReplied slot rest .ok bytes s)) ∧
    (¬TakesOffer .u .c s → exec .commandReplyPlacement s = .next { s with mgmt :=
      { s.mgmt with queue := { slot with state := .answerReady ⟨.ok, bytes, false⟩ } :: rest } }) := by
  intro bytes
  let ready : CommandSlot := { slot with state := .answerReady ⟨.ok, bytes, false⟩ }
  have captured := (captureRead_area queue free waiting manager read first last).trans
    (setHeadState_eq _ queue)
  have placement := congrArg (fun t => Host.Outcome.next (φ := Fault) (ρ := Refusal) (offerReply t)) captured
  exact ⟨fun takes => placement.trans (congrArg _ (offerReply_taken (slot := ready) rfl (.inl rfl) takes)),
    fun full => placement.trans (congrArg _ (offerReply_waits rfl full))⟩

end Head

/-- Settles O47: a reply formed before, and an area read whose bytes are captured first. -/
theorem accessIsReplied : Obligations.AccessIsReplied := by
  refine ⟨showsResult, fun status => (congrFun statusByte_eq status).symm, fun s slot rest queue =>
    ⟨fun status payload ready => ?_, fun aborting => ?_,
      fun area free waiting manager read first last => ?_⟩⟩
  · exact commandReplyPlacement_replies queue (.inl ready)
  · exact commandReplyPlacement_replies queue (.inr ⟨aborting, rfl, rfl⟩)
  · exact commandReplyPlacement_area queue free waiting manager read first last

/-! ### Notice pops (R113) -/

section Pop

variable {s : State} {slot : CommandSlot} {rest : List CommandSlot} (queue : s.mgmt.queue = slot :: rest)

include queue

theorem popHead_eq (pops : slot.state = .popping ∨ slot.state = .waiting ∧ s.hold.release = none ∧
      s.mgmt.managers.getLsbD slot.source.toNat = true ∧ slot.kind = .read ∧ slot.offset = 0x4000 ∧
        slot.length = 32) : popHead s = some slot := by
  unfold popHead
  rw [queue]
  dsimp only
  rcases pops with popping | ⟨waiting, free, manager, read, offset, length⟩
  · rw [if_pos popping]
  · have access : headAccess s = some .pop := by
      rw [headAccess_eq free queue waiting, classify_pop manager read offset length]
    rw [access, if_pos rfl, ite_self]

theorem takePop_taken (pops : popHead s = some slot) (takes : TakesOffer .u .c s) : takePop s =
    accessReplied slot rest .ok (noticeRecord (s.notices.queue.headD (emptyRecord s))) (popNotice s) := by
  rw [takesOffer_iff] at takes
  unfold takePop
  simp only [pops, takes, if_true]
  exact placeReply_eq _ _ queue

theorem takePop_waits (pops : popHead s = some slot) (full : ¬TakesOffer .u .c s) : takePop s =
    { s with mgmt := { s.mgmt with queue := { slot with state := .popping } :: rest } } := by
  rw [takesOffer_iff] at full
  unfold takePop
  simp only [pops, if_neg full]
  exact setHeadState_eq _ queue

end Pop

/-! ### Emission (R134) -/

theorem emissionOffer_eq_none {s : State} (off : s.mgmt.params.noticeTarget.enable = false ∨
      (s.port .u).state ≠ .up ∨ s.notices.queue = []) : emissionOffer s = none := by
  unfold emissionOffer
  split_ifs with kept
  · obtain ⟨enabled, up⟩ := kept
    rcases off with disabled | down | empty
    · rw [disabled] at enabled
      cases enabled
    · exact absurd up down
    · rw [empty]
      rfl
  · rfl

theorem emitNotice_none {s : State} (noOffer : emissionOffer s = none) : emitNotice s = s := by
  unfold emitNotice
  rw [noOffer]

section Emission

variable {s : State} {n : Notice}

theorem emissionOffer_eq_some {rest : List Notice} (enabled : s.mgmt.params.noticeTarget.enable = true)
    (up : (s.port .u).state = .up) (queue : s.notices.queue = n :: rest) : emissionOffer s = some n := by
  unfold emissionOffer
  rw [if_pos ⟨enabled, up⟩, queue]
  rfl

variable (offer : emissionOffer s = some n)

include offer

theorem emitNotice_taken (takes : TakesOffer .u .p s) : emitNotice s =
    popNotice (enqueue .u .p (noticeWrite n (s.unit .u) s.mgmt.params.noticeTarget) s) := by
  rw [takesOffer_iff] at takes
  unfold emitNotice
  simp only [offer, takes, if_true]

theorem emitNotice_waits (full : ¬TakesOffer .u .p s) : emitNotice s = s := by
  rw [takesOffer_iff] at full
  unfold emitNotice
  simp only [offer, if_neg full]

end Emission

/-- Settles O51: the bytes of a notice, its pop and its emission. -/
theorem noticeLeaves : Obligations.NoticeLeaves := by
  refine ⟨showsNotice, fun s => ⟨fun slot rest queue pops => ?_,
    fun enabled up n rest oldest => ?_, fun off => ?_⟩⟩
  · have head := popHead_eq queue pops
    refine ⟨fun takes => congrArg _ ((takePop_taken queue head takes).trans ?_),
      fun full => congrArg _ (takePop_waits queue head full)⟩
    refine congrArg (fun n => accessReplied slot rest .ok (noticeRecord n) (popNotice s)) ?_
    cases s.notices.queue <;> rfl
  · have offer := emissionOffer_eq_some enabled up oldest
    refine ⟨fun takes => congrArg _ ((emitNotice_taken offer takes).trans ?_),
      fun full => congrArg _ (emitNotice_waits offer full)⟩
    have later : rest = s.notices.queue.tail := by
      rw [oldest]
      rfl
    rw [later]
    rfl
  · exact congrArg _ (emitNotice_none (emissionOffer_eq_none off))

end Sys2Proof
end

section
/-! PROOFS. BATCH: the parse pass over its body, and the execution pass over its members (R121, R122). -/

namespace Sys2Proof

open Machine

/-! ### The parse pass (R119, R121) -/

/-- The outcome of a parse pass that has taken some members before. -/
def Machine.Members.after (taken : List (CommandCode × List Byte)) : Members → Members
  | .parsed later => .parsed (taken ++ later)
  | .failed index => .failed index

/-- The length field of a block gives the block's own end. -/
theorem parseBlock_span {block : List Byte} {m : CommandCode × List Byte}
    (parses : parseBlock block = some m) : 4 + field block 2 2 = block.length := by
  obtain ⟨code, body⟩ := m
  obtain ⟨c, flags, l0, l1, rfl, _, _, fits, _⟩ := (blockOf_iff block code body).2 parses
  simp only [field_cons_succ, List.length_cons]
  simp [field, ofLE, fits]
  omega

theorem parseMembersFrom_nil (fuel index : Nat) : parseMembersFrom (fuel + 1) index [] =
    if index = 1 then .failed 1 else .parsed [] :=
  if_pos rfl

section Parse

variable {fuel index : Nat} {bytes : List Byte} (more : bytes ≠ [])

include more

theorem parseMembersFrom_seventeenth (past : 16 < index) :
    parseMembersFrom (fuel + 1) index bytes = .failed index := by
  unfold parseMembersFrom
  rw [if_neg more]
  exact if_pos past

theorem parseMembersFrom_noBlock (noBlock : ∀ n, parseBlock (bytes.take n) = none) :
    parseMembersFrom (fuel + 1) index bytes = .failed index := by
  unfold parseMembersFrom
  simp only [if_neg more, noBlock, ite_self]

end Parse

theorem parseMembersFrom_block {block : List Byte} {m : CommandCode × List Byte}
    (parses : parseBlock block = some m) (rest : List Byte) (fuel : Nat) {index : Nat} (room : index ≤ 16) :
    parseMembersFrom (fuel + 1) index (block ++ rest) =
      (parseMembersFrom fuel (index + 1) rest).after [m] := by
  have span := parseBlock_span parses
  have length : 4 + field (block ++ rest) 2 2 = block.length := by
    rw [← span, field_append_left (by omega)]
  have nonempty : block ++ rest ≠ [] := by
    intro empty
    rw [(List.append_eq_nil_iff.1 empty).1] at span
    simp at span
  have inside : ¬((block ++ rest).length < 4 ∨ (block ++ rest).length < block.length) := by
    rw [List.length_append]
    omega
  conv_lhs => unfold parseMembersFrom
  simp only [if_neg nonempty, length, if_neg inside, List.take_left', List.drop_left', parses]
  rw [if_neg (show ¬Config.batchMembers < index from Nat.not_lt.2 room)]
  cases parseMembersFrom fuel (index + 1) rest <;> rfl

/-- Blocks that stand one after the other are taken as the members, up to the sixteenth. -/
theorem parseMembersFrom_blocks (rest : List Byte) (fuel : Nat) :
    ∀ (blocks : List (List Byte)) (members : List (CommandCode × List Byte)) (index : Nat),
      blocks.map parseBlock = members.map some → index + members.length ≤ 17 →
      parseMembersFrom (fuel + members.length) index (blocks.flatten ++ rest) =
        (parseMembersFrom fuel (index + members.length) rest).after members
  | [], [], index, _, _ => by
    simp only [List.flatten_nil, List.nil_append, List.length_nil, Nat.add_zero]
    cases parseMembersFrom fuel index rest <;> rfl
  | block :: blocks, m :: members, index, parse, room => by
    rw [List.map_cons, List.map_cons, List.cons.injEq] at parse
    obtain ⟨parses, parseRest⟩ := parse
    rw [List.length_cons] at room ⊢
    rw [List.flatten_cons, List.append_assoc, ← Nat.add_assoc, parseMembersFrom_block parses _ _ (by omega),
      parseMembersFrom_blocks rest fuel blocks members (index + 1) parseRest (by omega),
      show index + 1 + members.length = index + (members.length + 1) by omega]
    cases parseMembersFrom fuel (index + (members.length + 1)) rest <;> rfl

section Body

variable {blocks : List (List Byte)} {members : List (CommandCode × List Byte)} {rest : List Byte}
  (parse : blocks.map parseBlock = members.map some)

include parse

/-- After the blocks of up to sixteen members, the parse pass looks for the next one. -/
theorem parseMembers_blocks (few : members.length ≤ 16) : parseMembers (blocks.flatten ++ rest) =
    (parseMembersFrom (17 - members.length + 1) (members.length + 1) rest).after members := by
  have fuel : Config.batchMembers + 2 = 17 - members.length + 1 + members.length := by
    change 18 = _
    omega
  rw [parseMembers, fuel, parseMembersFrom_blocks rest _ blocks members 1 parse (by omega), Nat.add_comm 1]

theorem parseMembers_whole (few : members.length ≤ 16) : parseMembers (blocks.flatten ++ []) =
    if members = [] then .failed 1 else .parsed members := by
  rw [parseMembers_blocks parse few, parseMembersFrom_nil]
  cases members with
  | nil => rfl
  | cons m members => simp [Members.after]

variable (more : rest ≠ [])

include more

theorem parseMembers_noBlock (few : members.length < 16) (noBlock : ∀ n, parseBlock (rest.take n) = none) :
    parseMembers (blocks.flatten ++ rest) = .failed (members.length + 1) := by
  rw [parseMembers_blocks parse few.le, parseMembersFrom_noBlock more noBlock]
  rfl

theorem parseMembers_seventeenth (sixteen : members.length = 16) :
    parseMembers (blocks.flatten ++ rest) = .failed 17 := by
  rw [parseMembers_blocks parse sixteen.le, parseMembersFrom_seventeenth more (by omega), sixteen]
  rfl

end Body

/-! ### A member -/

theorem resultOk_iff (c : ResultCode) : c.ok = true ↔ c = .done ∨ c = .accepted := by
  simp [ResultCode.ok]

/-- A command that finishes neither begins a release nor ends one. -/
def Machine.Run.KeepsRelease (s : State) : Run → Prop
  | .finished _ t => t.hold.release = s.hold.release
  | .suspended _ => True

theorem runCommand_keepsRelease (code : CommandCode) (body : List Byte) (s : State) :
    (runCommand code body s).KeepsRelease s := by
  cases code with
  | nop | lockManagers | warmReset | batch => rfl
  | insert | remove | modify | move | clearStaging => exact congrArg HoldQueue.release (applyEdit_hold _ s)
  | commit =>
    simp only [runCommand, runCommit]
    split_ifs
    · rfl
    · rfl
    · exact congrArg HoldQueue.release (takeSwap_hold s)
  | forceDrain =>
    simp only [runCommand, runForceDrain]
    split_ifs
    · exact congrArg HoldQueue.release (forceDrain_hold s)
    · rfl
  | release =>
    simp only [runCommand, startRelease]
    split
    · rfl
    · split
      · rfl
      · trivial
  | discard =>
    simp only [runCommand, runDiscard]
    split_ifs
    · rfl
    · split
      · rfl
      · exact heldRefused_release _ _ s
  | setParam =>
    simp only [runCommand, runSetParam]
    split
    · rfl
    · exact congrArg HoldQueue.release (setParam_hold _ s)
  | setAperture | setManagers | linkRestart =>
    simp only [runCommand, runSetAperture, runSetManagers, runLinkRestart]
    split_ifs <;> rfl

theorem runMember_keepsRelease (code : CommandCode) (body : List Byte) (last : Bool) (s : State) :
    (runMember code body last s).KeepsRelease s := by
  unfold runMember
  split
  · rfl
  · exact runCommand_keepsRelease code body s

theorem setHeadState_withQueue {slot : CommandSlot} {rest : List CommandSlot} {s : State}
    (queue : s.mgmt.queue = slot :: rest) (st stale : SlotState) :
    setHeadState st (withQueue ({ slot with state := stale } :: rest) s) = setHeadState st s := by
  rw [setHeadState_eq st queue]
  rfl

/-! ### The execution pass -/

section Member

variable {s t : State} {run : BatchRun} {code : CommandCode} {body : List Byte}
  {more : List (CommandCode × List Byte)} (todo : run.todo = (code, body) :: more)

include todo

/-- A member that finishes ends the batch, or the batch goes on to the next one. -/
theorem runMembers_finished {r : Result}
    (came : runMember code body more.isEmpty s = .finished r t) (n : Nat) :
    runMembers (n + 1) run s =
      if r.code.ok then if more = [] then answerHead r 0 t else runMembers n ⟨more, run.index + 1, r⟩ t
      else answerHead r run.index t := by
  rw [runMembers]
  simp only [todo, came]

theorem runMembers_suspended (came : runMember code body more.isEmpty s = .suspended t) (n : Nat) :
    runMembers (n + 1) run s = setHeadState (.executingBatch { run with todo := more }) t := by
  rw [runMembers]
  simp only [todo, came]

end Member

/-- The execution pass replaces the state of the head, whatever it was. -/
theorem runMembers_withQueue {s : State} {slot : CommandSlot} {rest : List CommandSlot}
    (queue : s.mgmt.queue = slot :: rest) (stale : SlotState) (n : Nat) (run : BatchRun) :
    runMembers n run (withQueue ({ slot with state := stale } :: rest) s) = runMembers n run s := by
  induction n generalizing run s with
  | zero => exact setHeadState_withQueue queue _ stale
  | succ n ih =>
    cases todo : run.todo with
    | nil =>
      unfold runMembers
      rw [todo]
      exact setHeadState_withQueue queue _ stale
    | cons m more =>
      obtain ⟨code, body⟩ := m
      have kept := runMember_queue code body more.isEmpty s
      have moved := runMember_withQueue ({ slot with state := stale } :: rest) code body more.isEmpty s
      cases came : runMember code body more.isEmpty s with
      | finished r t =>
        rw [came] at kept moved
        have queue : t.mgmt.queue = slot :: rest := kept.trans queue
        rw [runMembers_finished todo moved, runMembers_finished todo came, ih queue]
        unfold answerHead
        rw [setHeadState_withQueue queue, setHeadState_withQueue queue]
      | suspended t =>
        rw [came] at kept moved
        rw [runMembers_suspended todo moved, runMembers_suspended todo came]
        exact setHeadState_withQueue (kept.trans queue) _ stale

/-! ### A BATCH at the head -/

section Batch

variable {s : State} {slot : CommandSlot} {rest : List CommandSlot}

theorem takeBatch_failed {body : List Byte} (takes : Takes .batch body slot rest s) {i : Nat}
    (failed : parseMembers body = .failed i) (n : Nat) :
    takeBatch n s = answered slot rest ⟨.malformed, 0⟩ i s := by
  unfold takeBatch
  simp only [headCommand_of_takes takes, failed]
  exact answerHead_eq _ _ takes.2.1

theorem takeBatch_parsed {body : List Byte} (takes : Takes .batch body slot rest s)
    {todo : List (CommandCode × List Byte)} (parsed : parseMembers body = .parsed todo) (n : Nat) :
    takeBatch n s = runMembers n ⟨todo, 1, ⟨.done, 0⟩⟩ s := by
  unfold takeBatch
  simp only [headCommand_of_takes takes, parsed]
  rfl

theorem takeBatch_executing (free : s.hold.release = none) (queue : s.mgmt.queue = slot :: rest)
    {run : BatchRun} (executing : slot.state = .executingBatch run) (n : Nat) :
    takeBatch n s = runMembers n run s := by
  have noCommand : headCommand s = none := by
    simp [headCommand, headAccess, waitingHead, free, queue, executing]
  unfold takeBatch
  simp only [noCommand, free, queue, executing]

/-- A batch put into its execution pass goes on as its members do. -/
theorem takeBatch_batchGoesOn (free : s.hold.release = none) (queue : s.mgmt.queue = slot :: rest)
    (run : BatchRun) (n : Nat) : takeBatch n (batchGoesOn slot rest run s) = runMembers n run s := by
  have executes : takeBatch n (batchGoesOn slot rest run s) = runMembers n run (batchGoesOn slot rest run s) :=
    takeBatch_executing (s := batchGoesOn slot rest run s)
      (slot := { slot with state := .executingBatch run }) free rfl rfl n
  exact executes.trans (runMembers_withQueue queue _ n run)

end Batch

/-! ### A member and the command it holds -/

theorem runMember_notAllowed {code : CommandCode} {last : Bool}
    (barred : code = .warmReset ∨ code = .batch ∨ code = .commit ∧ last = false) (body : List Byte)
    (s : State) : runMember code body last s = .finished ⟨.notAllowed, 0⟩ s := by
  rcases barred with rfl | rfl | barred
  · exact if_neg nofun
  · exact if_neg nofun
  · exact if_pos barred

theorem runMember_allowed {code : CommandCode} {last : Bool} (allowed : code = .commit → last = true)
    (body : List Byte) (s : State) : runMember code body last s = runCommand code body s :=
  if_neg fun barred => by simp [allowed barred.1] at barred

/-- A single command that may be a member is carried out as `runCommand` says, and answered. -/
theorem takes_runCommand {code : CommandCode} {body : List Byte} {slot : CommandSlot}
    {rest : List CommandSlot} {s : State} (takes : Takes code body slot rest s) (noReset : code ≠ .warmReset)
    (noBatch : code ≠ .batch) (noRelease : code ≠ .release) :
    ∃ r t, runCommand code body s = .finished r t ∧
      exec (commandOf code) s = .next (answered slot rest r (singleIndex r) t) := by
  have taken {run : List Byte → CommandRun}
      (runs : runCommand code body s = .finished (run body s).1 (run body s).2) :
      ∃ r t, runCommand code body s = .finished r t ∧
        Host.Outcome.next (φ := Fault) (ρ := Refusal) (takeCommand code run s) =
          .next (answered slot rest r (singleIndex r) t) := by
    have queue := runMember_queue code body true s
    rw [runMember_allowed (fun _ => rfl), runs] at queue
    exact ⟨_, _, runs, congrArg _ (takeCommand_eq takes rfl queue)⟩
  cases code with
  | warmReset => exact absurd rfl noReset
  | batch => exact absurd rfl noBatch
  | release => exact absurd rfl noRelease
  | nop => exact taken (run := fun _ => runNop) rfl
  | clearStaging => exact taken (run := fun _ => runClearStaging) rfl
  | commit => exact taken (run := fun _ => runCommit) rfl
  | forceDrain => exact taken (run := fun _ => runForceDrain) rfl
  | lockManagers => exact taken (run := fun _ => runLockManagers) rfl
  | insert => exact taken (run := runInsert) rfl
  | remove => exact taken (run := runRemove) rfl
  | modify => exact taken (run := runModify) rfl
  | move => exact taken (run := runMove) rfl
  | discard => exact taken (run := runDiscard) rfl
  | setParam => exact taken (run := runSetParam) rfl
  | setAperture => exact taken (run := runSetAperture) rfl
  | setManagers => exact taken (run := runSetManagers) rfl
  | linkRestart => exact taken (run := runLinkRestart) rfl

/-- Settles O46: the parse pass over the blocks of the body, the execution pass member by member, and what a
member is. -/
theorem batchIsCarriedOut : Obligations.BatchIsCarriedOut := by
  refine ⟨fun blocks members rest parse => ⟨?_, ?_, ?_, ?_⟩, fun s slot rest body n takes => ⟨?_, ?_⟩,
    fun s slot rest run n code body more free queue executing todo =>
      ⟨fun r t came => ?_, fun t came => ?_⟩,
    fun s slot rest code body last => ⟨fun barred => runMember_notAllowed barred body s,
      fun noReset noBatch noRelease allowed takes => ?_⟩⟩
  · rintro rfl empty
    rw [parseMembers_whole parse (by simp [empty]), if_pos empty]
  · rintro rfl nonempty few
    rw [parseMembers_whole parse few, if_neg (List.length_pos_iff.1 nonempty)]
  · exact fun left few noBlock => parseMembers_noBlock parse left few noBlock
  · exact fun left sixteen => parseMembers_seventeenth parse left sixteen
  · exact fun i failed => congrArg _ (takeBatch_failed takes failed n)
  · intro members parsed
    have ⟨free, queue, _⟩ := takes
    have goesOn := takeBatch_batchGoesOn free queue ⟨members, 1, ⟨.done, 0⟩⟩ n
    exact congrArg Host.Outcome.next ((takeBatch_parsed takes parsed n).trans goesOn.symm)
  · have kept := runMember_queue code body more.isEmpty s
    have release := runMember_keepsRelease code body more.isEmpty s
    rw [came] at kept release
    have queue' : t.mgmt.queue = slot :: rest := kept.trans queue
    have pass := (takeBatch_executing free queue executing (n + 1)).trans (runMembers_finished todo came n)
    refine ⟨fun bad => congrArg _ (pass.trans ?_), fun good => ⟨fun done => congrArg _ (pass.trans ?_),
      fun left => congrArg _ (pass.trans ?_)⟩⟩
    · rw [if_neg fun ok => by simpa [bad] using (resultOk_iff _).1 ok]
      exact answerHead_eq _ _ queue'
    · rw [if_pos ((resultOk_iff _).2 good), if_pos done]
      exact answerHead_eq _ _ queue'
    · rw [if_pos ((resultOk_iff _).2 good), if_neg left]
      exact (takeBatch_batchGoesOn (release.trans free) queue' _ n).symm
  · have kept := runMember_queue code body more.isEmpty s
    rw [came] at kept
    have pass := (takeBatch_executing free queue executing (n + 1)).trans (runMembers_suspended todo came n)
    exact congrArg _ (pass.trans (setHeadState_eq _ (kept.trans queue)))
  · rw [runMember_allowed allowed]
    obtain ⟨r, t, runs, single⟩ := takes_runCommand takes noReset noBatch noRelease
    have index : singleIndex r = if r.code = .done ∨ r.code = .accepted then 0 else 1 := by
      simp only [singleIndex, resultOk_iff]
    exact ⟨r, t, runs, index ▸ single⟩

end Sys2Proof
end

section
/-! PROOFS. What the Notice Unit makes of a notice request: a record, or a count of the loss (R131, R132). -/

namespace Sys2Proof

open Machine

section Take

variable {n : NoticeUnit} (now : Time) (r : NoticeReq)

theorem noticeUnit_take_accepted (room : n.queue.length < 32) : n.take now r =
    { queue := n.queue ++ [⟨r, n.nextSeq, now, n.dropped⟩], nextSeq := n.nextSeq + 1, dropped := 0 } :=
  if_pos room

theorem noticeUnit_take_dropped (full : 32 ≤ n.queue.length) : n.take now r =
    { n with dropped := min (n.dropped + 1) 255 } :=
  if_neg (Nat.not_lt.2 full)

end Take

/-- A count that stops at its limit, which the model writes as a minimum and R132 as a case split. -/
theorem min_succ_eq_ite (count limit : Nat) :
    min (count + 1) limit = if count < limit then count + 1 else limit := by
  split <;> omega

/-- Settles O50: a request is accepted while the queue holds fewer than 32 records, and otherwise counted. -/
theorem noticeIsAcceptedOrDropped : Obligations.NoticeIsAcceptedOrDropped := by
  refine fun r s => ⟨fun room => ?accepted, fun full => ?dropped, (raise_eq r s).symm⟩
  case accepted => rw [raise, noticeUnit_take_accepted _ _ room]
  case dropped => rw [raise, noticeUnit_take_dropped _ _ full, min_succ_eq_ite]

end Sys2Proof
end

section
/-! PROOFS. The laws of one link port, and what each change of a port keeps of them (R140 to R183). -/

namespace Sys2Proof

open Machine

/-! ### Stamped queues (R140, R146) -/

/-- The stamps of a queue rise along it and lie below the next one. -/
def Stamped {α : Type} (stamp : α → Nat) (next : Nat) (queue : List α) : Prop :=
  (queue.map stamp).Pairwise (· < ·) ∧ ∀ k ∈ queue, stamp k < next

namespace Stamped

variable {α : Type} {stamp : α → Nat} {next : Nat} {queue : List α}

theorem nil : Stamped stamp next [] := ⟨.nil, fun _ mem => absurd mem List.not_mem_nil⟩

theorem sublist (stamped : Stamped stamp next queue) {shorter : List α}
    (sub : shorter.Sublist queue) : Stamped stamp next shorter :=
  ⟨stamped.1.sublist (sub.map stamp), fun k mem => stamped.2 k (sub.subset mem)⟩

/-- Changing what a queue's slots hold besides their stamps does not matter. -/
theorem map (stamped : Stamped stamp next queue) {f : α → α} (same : ∀ k, stamp (f k) = stamp k) :
    Stamped stamp next (queue.map f) := by
  obtain ⟨rising, below⟩ := stamped
  refine ⟨?_, List.forall_mem_map.2 fun k mem => (same k).symm ▸ below k mem⟩
  rw [List.map_map, show stamp ∘ f = stamp from funext same]
  exact rising

theorem later (stamped : Stamped stamp next queue) : Stamped stamp (next + 1) queue :=
  ⟨stamped.1, fun k mem => Nat.lt_succ_of_lt (stamped.2 k mem)⟩

/-- A slot that enters the tail with the next stamp. -/
theorem snoc (stamped : Stamped stamp next queue) {k : α} (is : stamp k = next) :
    Stamped stamp (next + 1) (queue ++ [k]) := by
  obtain ⟨rising, below⟩ := stamped
  refine ⟨?_, ?_⟩
  · rw [List.map_append, List.pairwise_append]
    simp only [List.map_cons, List.map_nil, List.mem_singleton, forall_eq, List.forall_mem_map, is]
    exact ⟨rising, List.pairwise_singleton _ _, below⟩
  · simp only [List.mem_append, List.mem_singleton, or_imp, forall_and, forall_eq, is]
    exact ⟨fun k mem => Nat.lt_succ_of_lt (below k mem), Nat.lt_succ_self next⟩

end Stamped

/-- The queues of the three channels, each within its slots and stamped. -/
def QueuesStamped {α : Type} (stamp : α → Nat) (next : Nat) (queues : Trio (List α)) : Prop :=
  ∀ ch, (queues.get ch).length ≤ slotsOf ch ∧ Stamped stamp next (queues.get ch)

namespace QueuesStamped

variable {α : Type} {stamp : α → Nat} {next : Nat} {queues : Trio (List α)}
  (lawful : QueuesStamped stamp next queues)

include lawful

theorem set_snoc {ch : Chan} {k : α} (room : (queues.get ch).length < slotsOf ch) (is : stamp k = next) :
    QueuesStamped stamp (next + 1) (queues.set ch (queues.get ch ++ [k])) := by
  intro i
  rw [Trio.get_set]
  split
  · next same => exact ⟨by simpa [same] using room, (lawful ch).2.snoc is⟩
  · exact ⟨(lawful i).1, (lawful i).2.later⟩

theorem set_sublist {ch : Chan} {shorter : List α} (sub : shorter.Sublist (queues.get ch)) :
    QueuesStamped stamp next (queues.set ch shorter) := by
  intro i
  rw [Trio.get_set]
  split
  · next same => exact ⟨same ▸ sub.length_le.trans (lawful ch).1, (lawful ch).2.sublist sub⟩
  · exact lawful i

end QueuesStamped

theorem trio_set_tail_of_empty {α : Type} {x : Trio (List α)} (empty : x = ⟨[], [], []⟩) (ch : Chan) :
    x.set ch (x.get ch).tail = ⟨[], [], []⟩ := by
  subst empty
  cases ch <;> rfl

/-! ### The states of a port -/

/-- A port that is down is OFFLINE, TRAINING or FAULTED. -/
theorem linkState_down_iff (st : LinkState) :
    st.down = true ↔ st = .offline ∨ st = .training ∨ st = .faulted := by
  cases st <;> simp [LinkState.down]

theorem answer_accepted {lp : LinkPort} {ch : Chan} (accepted : lp.answer ch = .accepted) :
    ¬lp.state.down = true ∧ (lp.transmit.get ch).length < slotsOf ch := by
  rw [slotsOf_eq]
  unfold LinkPort.answer at accepted
  split_ifs at accepted with down room
  exact ⟨down, room⟩

/-- What R183 asks of a port that is down asks nothing of one that is not. -/
theorem not_down_elim {st : LinkState} (notDown : ¬st.down = true) {asked : Prop}
    (down : st = .offline ∨ st = .training ∨ st = .faulted) : asked :=
  absurd ((linkState_down_iff st).2 down) notDown

theorem not_down_of_up {lp : LinkPort} (up : lp.state = .up) : ¬lp.state.down = true := by
  rw [up]; nofun

/-- The acknowledgement deadline runs while the replay store is not empty (R176). -/
theorem ackDeadlineFor_eq_none (now : Time) (store : List SentPacket) :
    ackDeadlineFor now store = none ↔ store = [] := by
  unfold ackDeadlineFor; split_ifs with empty <;> simp [empty]

namespace PortLaws

variable {p : Port} {lp : LinkPort} (laws : PortLaws p lp)

include laws

theorem ingress_lawful : QueuesStamped (·.stamp) lp.nextArrival lp.ingress :=
  fun ch => ⟨laws.ingress_size ch, laws.ingress_stamps ch⟩

theorem transmit_lawful : QueuesStamped (·.stamp) lp.nextStamp lp.transmit :=
  fun ch => ⟨laws.transmit_size ch, laws.transmit_stamps ch⟩

/-- A port with an attempt in progress is TRAINING in NEW mode and RETRAINING in RESUME mode. -/
theorem attempt_state {a : Attempt} (current : lp.attempt = some a) :
    a.mode = .new ∧ lp.state = .training ∨ a.mode = .resume ∧ lp.state = .retraining := by
  cases mode : a.mode with
  | new => exact .inl ⟨rfl, laws.attempt_new.2 ⟨a, current, mode⟩⟩
  | resume => exact .inr ⟨rfl, laws.attempt_resume.2 ⟨a, current, mode⟩⟩

theorem attempts_le {a : Attempt} (current : lp.attempt = some a) : lp.attempts ≤ 2 :=
  laws.attempts_bound.2 (.inl (by rw [current]; nofun))

theorem no_hold_off (other : lp.state ≠ .faulted) : lp.holdOff = none := by
  by_contra runs
  exact other (laws.hold_off.1 runs).2

/-! ### Queues -/

/-- A packet enters the tail of a transmit queue that accepts it (R146, R147). -/
theorem enqueue {ch : Chan} (pkt : Packet) (accepted : lp.answer ch = .accepted) :
    PortLaws p (lp.enqueue ch pkt) := by
  obtain ⟨notDown, room⟩ := answer_accepted accepted
  have entered := laws.transmit_lawful.set_snoc (k := ⟨pkt, lp.nextStamp⟩) room rfl
  exact { laws with
    transmit_size := fun ch => (entered ch).1
    transmit_stamps := fun ch => (entered ch).2
    fence_stamp := fun k is => Nat.lt_succ_of_lt (laws.fence_stamp k is)
    down_empty := not_down_elim notDown }

/-- The head of an ingress queue leaves it (R141). -/
theorem popIngress (ch : Chan) : PortLaws p (lp.popIngress ch) :=
  have left := laws.ingress_lawful.set_sublist (ch := ch) (List.tail_sublist _)
  { laws with
    ingress_size := fun ch => (left ch).1
    ingress_stamps := fun ch => (left ch).2
    down_empty := fun down =>
      have ⟨ingress, rest⟩ := laws.down_empty down
      ⟨trio_set_tail_of_empty ingress ch, rest⟩ }

/-- A packet is accepted into an ingress queue with a free slot (R140, R177). -/
theorem accept (up : lp.state = .up) (pkt : Packet) (room : lp.freeSlots pkt.kind.chan ≠ 0) :
    PortLaws p (lp.accept pkt) := by
  have fits : (lp.ingress.get pkt.kind.chan).length < slotsOf pkt.kind.chan := by
    rw [slotsOf_eq]
    exact Nat.lt_of_sub_pos (Nat.pos_of_ne_zero room)
  have entered := laws.ingress_lawful.set_snoc (k := ⟨pkt, lp.nextArrival, false⟩) fits rfl
  exact { laws with
    ingress_size := fun ch => (entered ch).1
    ingress_stamps := fun ch => (entered ch).2
    down_empty := not_down_elim (not_down_of_up up) }

theorem requestReplay : PortLaws p lp.requestReplay := { laws with }

/-- A packet of the three channels taken while UP (R177). -/
theorem receive (up : lp.state = .up) (pkt : Packet) (seq : SeqNo) :
    PortLaws p (lp.receive pkt seq) := by
  unfold LinkPort.receive
  split_ifs with duplicate ahead inOrder full
  · exact { laws with }
  · exact laws.requestReplay
  · exact laws
  · exact laws.requestReplay
  · exact laws.accept up pkt full

/-- The ingress queues at a warm reset (R43). -/
theorem warmIngress (tagged : Bool) : PortLaws p (lp.warmIngress tagged) := by
  rw [warmIngress_eq]
  have shorter : (if tagged then lp.ingress.n.tail else lp.ingress.n).Sublist lp.ingress.n := by
    split
    · exact List.tail_sublist _
    · exact .refl _
  exact { laws with
    ingress_size := fun
      | .p => Nat.zero_le _
      | .n => by
        simpa [Trio.get] using shorter.length_le.trans (laws.ingress_size .n)
      | .c => laws.ingress_size .c
    ingress_stamps := fun
      | .p => Stamped.nil
      | .n => (Stamped.sublist (laws.ingress_stamps .n) shorter).map fun _ => rfl
      | .c => laws.ingress_stamps .c
    down_empty := fun down => by
      obtain ⟨ingress, rest⟩ := laws.down_empty down
      rw [ingress]
      exact ⟨by cases tagged <;> rfl, rest⟩ }

/-- A swap places a drain fence packet in the fence slot of an UP port (R96, R148). -/
theorem placeFence (q : Port) (unit : UnitNo) : PortLaws p (lp.placeFence q unit) := by
  unfold LinkPort.placeFence
  split_ifs with up
  · exact { laws with
      transmit_stamps := fun ch => Stamped.later (laws.transmit_stamps ch)
      fence_stamp := by rintro _ ⟨⟩; exact Nat.lt_succ_self _
      down_empty := not_down_elim (not_down_of_up up) }
  · exact laws

/-! ### Training -/

/-- An attempt goes on in its mode. -/
theorem train {a a' : Attempt} (current : lp.attempt = some a) (mode : a'.mode = a.mode)
    (due : List Phase) : PortLaws p (lp.train a' due) := by
  have same : ∀ m, (∃ b, some a' = some b ∧ b.mode = m) ↔
      ∃ b, lp.attempt = some b ∧ b.mode = m := by
    simp [current, mode]
  exact { laws with
    attempt_new := laws.attempt_new.trans (same .new).symm
    attempt_resume := laws.attempt_resume.trans (same .resume).symm
    attempts_bound := ⟨laws.attempts_bound.1, fun _ => laws.attempts_le current⟩ }

theorem advance {a a' : Attempt} (current : lp.attempt = some a) (mode : a'.mode = a.mode) :
    PortLaws p (lp.advance a') := by
  unfold LinkPort.advance
  split_ifs
  · exact laws.train (a' := { a' with phase := .ready }) current mode _
  · exact laws.train current mode _

theorem sendPhase {a : Attempt} (current : lp.attempt = some a) (ph : Phase) :
    PortLaws p (lp.sendPhase a ph) := by
  cases ph with
  | speed => exact { laws with }
  | ident => exact PortLaws.advance (lp := { lp.send _ with ackOwed := _ }) { laws with } current rfl
  | ready => exact { laws with }

/-- Which TRAINs are due does not matter to the laws. -/
theorem owing (due : List Phase) : PortLaws p { lp with owedTrains := due } := { laws with }

/-- A TRAIN is sent (R171, R174). -/
theorem sendTrain : PortLaws p lp.sendTrain := by
  unfold LinkPort.sendTrain
  split
  · next a ph rest current _ => exact (laws.owing rest).sendPhase current ph
  · next current _ => exact laws.sendPhase current _
  · exact { laws with }
  · exact laws

/-- A failed attempt that is not the third is followed by another in the same mode (R175). -/
theorem repeated {a : Attempt} (current : lp.attempt = some a) (more : lp.attempts + 1 < 3)
    {a' : Attempt} (mode : a'.mode = a.mode) :
    PortLaws p (LinkPort.begin { lp with attempts := lp.attempts + 1 } a') := by
  have trained := laws.train current mode []
  exact { trained with
    attempts_bound := ⟨by simp only [LinkPort.begin]; omega, fun _ => Nat.le_of_lt_succ more⟩ }

/-- The third failed attempt of a port in TRAINING brings it to FAULTED with nothing to lose (R175). -/
theorem fault_training (training : lp.state = .training) (now : Time) :
    PortLaws p (lp.fault p now) :=
  { laws with
    attempt_new := ⟨nofun, fun ⟨_, is, _⟩ => nomatch is⟩
    attempt_resume := ⟨nofun, fun ⟨_, is, _⟩ => nomatch is⟩
    attempts_bound := ⟨Nat.le_refl 3, by rintro (is | is) <;> exact absurd is (by nofun)⟩
    down_empty := fun _ => laws.down_empty (.inr (.inl training))
    deadline := nofun
    hold_off := by simp [LinkPort.fault] }

omit laws in
/-- A port-down leaves nothing in the port (R183). -/
theorem goDown_fault (lp : LinkPort) (now : Time) : PortLaws p ((lp.goDown).fault p now) where
  ingress_size := fun ch => by cases ch <;> exact Nat.zero_le _
  transmit_size := fun ch => by cases ch <;> exact Nat.zero_le _
  store_size := Nat.zero_le _
  ingress_stamps := fun ch => by cases ch <;> exact Stamped.nil
  transmit_stamps := fun ch => by cases ch <;> exact Stamped.nil
  fence_stamp := nofun
  attempt_new := ⟨nofun, fun ⟨_, is, _⟩ => nomatch is⟩
  attempt_resume := ⟨nofun, fun ⟨_, is, _⟩ => nomatch is⟩
  attempts_bound := ⟨Nat.le_refl 3, by rintro (is | is) <;> exact absurd is (by nofun)⟩
  down_empty := fun _ => ⟨rfl, rfl, rfl, rfl, rfl⟩
  rounds_bound := Nat.zero_le _
  deadline := nofun
  replay_held := fun _ mem => absurd mem List.not_mem_nil
  hold_off := by simp [LinkPort.fault]

/-- A port that is down enters TRAINING (R169, R182, R125). -/
theorem toTraining (down : lp.state.down = true) {a : Attempt} (mode : a.mode = .new) :
    PortLaws p (LinkPort.begin
      { lp with state := .training, attempts := 0, txNext := 0, rxNext := 0, holdOff := none } a) :=
  { laws with
    attempt_new := ⟨fun _ => ⟨a, rfl, mode⟩, fun _ => rfl⟩
    attempt_resume := ⟨nofun, by rintro ⟨_, ⟨⟩, is⟩; exact nomatch mode.symm.trans is⟩
    attempts_bound := ⟨Nat.zero_le _, fun _ => Nat.zero_le _⟩
    down_empty := fun _ => laws.down_empty ((linkState_down_iff _).1 down)
    deadline := nofun
    hold_off := ⟨fun is => absurd rfl is, fun ⟨_, is⟩ => nomatch is⟩ }

/-- An UP port enters RETRAINING (R180). -/
theorem toRetraining (up : lp.state = .up) {a : Attempt} (mode : a.mode = .resume) :
    PortLaws p (LinkPort.begin
      { lp with
        state := .retraining, rounds := 0, ackDeadline := none, replayLeft := [], replayReqs := [] }
      a) :=
  have runs : lp.holdOff = none := laws.no_hold_off (by rw [up]; nofun)
  { laws with
    attempt_new := ⟨nofun, by rintro ⟨_, ⟨⟩, is⟩; exact nomatch mode.symm.trans is⟩
    attempt_resume := ⟨fun _ => ⟨a, rfl, mode⟩, fun _ => rfl⟩
    attempts_bound := ⟨laws.attempts_bound.1, fun _ => laws.attempts_bound.2 (.inr up)⟩
    down_empty := by rintro (is | is | is) <;> cases is
    rounds_bound := Nat.zero_le _
    deadline := nofun
    replay_held := fun _ mem => absurd mem List.not_mem_nil
    hold_off := ⟨fun is => absurd runs is, fun ⟨_, is⟩ => nomatch is⟩ }

/-- An attempt succeeds; after NEW there is nothing to replay, and after RESUME the replay store is (R174). -/
theorem succeed {a : Attempt} (current : lp.attempt = some a) (now : Time) :
    PortLaws p (lp.succeed a now) := by
  have replays : (∀ q ∈ (lp.succeed a now).replayLeft, ∃ k ∈ lp.replayStore, k.seq = q) ∧
      ((lp.succeed a now).ackDeadline = none ↔ lp.replayStore = []) := by
    obtain ⟨mode, state⟩ | ⟨mode, -⟩ := laws.attempt_state current
    · obtain ⟨-, -, -, store, -⟩ := laws.down_empty (.inr (.inl state))
      simp [LinkPort.succeed, mode, store]
    · simp [LinkPort.succeed, mode, ackDeadlineFor_eq_none]
  have runs : lp.holdOff = none := by
    obtain ⟨-, state⟩ | ⟨-, state⟩ := laws.attempt_state current <;>
      exact laws.no_hold_off (by rw [state]; nofun)
  exact { laws with
    attempt_new := ⟨nofun, fun ⟨_, is, _⟩ => nomatch is⟩
    attempt_resume := ⟨nofun, fun ⟨_, is, _⟩ => nomatch is⟩
    attempts_bound := ⟨Nat.zero_le _, fun _ => Nat.zero_le _⟩
    down_empty := by rintro (is | is | is) <;> cases is
    rounds_bound := Nat.zero_le _
    deadline := fun _ => replays.2
    replay_held := replays.1
    hold_off := ⟨fun is => absurd runs is, fun ⟨_, is⟩ => nomatch is⟩ }

/-! ### Acknowledgement, replay and transmission -/

/-- An acknowledgement takes packets from the replay store of a port that is not down (R144). While UP, the
deadline runs again if any are left (R176). -/
theorem applyAck (notDown : ¬lp.state.down = true) (held seq : SeqNo) (credit : Trio Nat)
    {deadline : Option Time} (runs : lp.state = .up →
      (deadline = none ↔ (lp.applyAck held seq credit).replayStore = [])) :
    PortLaws p { lp.applyAck held seq credit with ackDeadline := deadline } :=
  { laws with
    store_size := (List.length_filter_le _ _).trans laws.store_size
    down_empty := not_down_elim notDown
    rounds_bound := by
      simp only [LinkPort.applyAck]
      split_ifs
      · exact laws.rounds_bound
      · exact Nat.zero_le _
    deadline := runs
    replay_held := fun q mem => by simpa [LinkPort.applyAck, and_assoc] using (List.mem_filter.1 mem).2 }

/-- A deadline that ends while UP with nothing unacknowledged stays away (R179). -/
theorem deadlineOver (up : lp.state = .up) (empty : lp.replayStore = []) :
    PortLaws p { lp with ackDeadline := none } :=
  { laws with
    down_empty := not_down_elim (not_down_of_up up)
    deadline := fun _ => ⟨fun _ => empty, fun _ => rfl⟩ }

/-- A replay of packets of the replay store begins or ends (R178). -/
theorem replays {left : List SeqNo} (from_store : ∀ q ∈ left, ∃ k ∈ lp.replayStore, k.seq = q)
    {rounds : Nat} (bound : rounds ≤ 4) :
    PortLaws p { lp with rounds := rounds, replayLeft := left } :=
  { laws with rounds_bound := bound, replay_held := from_store }

theorem resend : PortLaws p lp.resend := by
  unfold LinkPort.resend
  split
  · exact laws
  · next q rest left =>
    have goesOn : PortLaws p { lp with replayLeft := rest } :=
      laws.replays (fun k mem => laws.replay_held k (left ▸ List.mem_cons_of_mem q mem)) laws.rounds_bound
    dsimp only
    split
    · exact goesOn
    · exact { goesOn with }

/-- The head that the arbiter chooses is sent: a copy of it enters the replay store (R151, R176). -/
theorem transmitHead (up : lp.state = .up) (room : lp.replayStore.length < 64) (now : Time) (ch : Chan)
    (slot : OutSlot) (fromFence : Bool) : PortLaws p (lp.transmitHead now ch slot fromFence) := by
  have taken : PortLaws p (lp.takeHead ch fromFence) := by
    unfold LinkPort.takeHead
    have left := laws.transmit_lawful.set_sublist (ch := ch) (List.tail_sublist _)
    have notDown := not_down_of_up up
    split
    · exact { laws with
        fence_stamp := nofun
        down_empty := not_down_elim notDown }
    · exact { laws with
        transmit_size := fun ch => (left ch).1
        transmit_stamps := fun ch => (left ch).2
        down_empty := not_down_elim notDown }
  have runs := laws.deadline up
  have same : (lp.takeHead ch fromFence).state = .up := by
    unfold LinkPort.takeHead; split <;> exact up
  have left : (lp.takeHead ch fromFence).replayLeft = lp.replayLeft := by
    unfold LinkPort.takeHead; split <;> rfl
  exact { taken with
    store_size := by simpa [LinkPort.transmitHead] using room
    down_empty := not_down_elim (not_down_of_up same)
    deadline := fun _ => by
      simp only [LinkPort.transmitHead, List.append_eq_nil_iff, reduceCtorEq, and_false, iff_false]
      split_ifs with empty
      · nofun
      · exact fun none => empty (runs.1 none)
    replay_held := fun q mem =>
      have ⟨k, held, is⟩ := laws.replay_held q (left ▸ mem)
      ⟨k, List.mem_append_left _ held, is⟩ }

end PortLaws

/-- What the choice of the arbiter says of the port (R149). -/
theorem chosen_spec {lp : LinkPort} {ch : Chan} (chosen : lp.chosen = some ch) :
    lp.state = .up ∧ lp.replayStore.length < 64 := by
  have sendable : lp.sendable ch = true := List.find?_some chosen
  obtain ⟨_, _, _, up, room, -⟩ := (headSendable_iff lp ch).2 sendable
  exact ⟨up, room⟩

end Sys2Proof
end

section
/-! PROOFS. What the operations that blocks share make of the ports, and that every event of the link ports,
the dispatchers, the tracker and the releases keeps their laws. -/

namespace Sys2Proof

open Machine

/-! ### Both ports -/

/-- Both ports keep the laws. -/
def LawfulPorts (ports : Duo LinkPort) : Prop := ∀ p, PortLaws p (ports.get p)

theorem LawfulPorts.set {ports : Duo LinkPort} (lawful : LawfulPorts ports) {p : Port} {lp : LinkPort}
    (laws : PortLaws p lp) : LawfulPorts (ports.set p lp) := by
  intro q
  rw [Duo.get_set]
  split
  · next same => exact same ▸ laws
  · exact lawful q

@[simp] theorem LawfulPorts.popIngress {ports : Duo LinkPort} {p : Port} {lp : LinkPort}
    (lawful : LawfulPorts (ports.set p lp)) (ch : Chan) :
    LawfulPorts (ports.set p (lp.popIngress ch)) := by
  have laws : PortLaws p lp := by simpa using lawful p
  simpa using lawful.set (laws.popIngress ch)

@[simp] theorem LawfulPorts.enqueue {s : State} (lawful : LawfulPorts s.ports) {p : Port} {ch : Chan}
    (accepted : offerAnswer p ch s = .accepted) (pkt : Packet) :
    LawfulPorts (s.ports.set p ((s.ports.get p).enqueue ch pkt)) :=
  lawful.set ((lawful p).enqueue pkt accepted)

/-! ### Operations that leave the ports alone -/

section Frames

variable (s : State)

@[simp] theorem allocateEntry_ports (e : TrackEntry) : (allocateEntry e s).ports = s.ports := rfl

@[simp] theorem setPhase_ports (r : Release) (phase : ReleasePhase) :
    (setPhase r phase s).ports = s.ports := rfl

@[simp] theorem finishHead_ports (p : Port) (ch : Chan) :
    (finishHead p ch s).ports = s.ports.set p ((s.ports.get p).popIngress ch) := rfl

@[simp] theorem expireAwaiting_ports (e : TrackEntry) : (expireAwaiting e s).ports = s.ports := rfl

@[simp] theorem expireHeld_ports (h : HoldSlot) : (expireHeld h s).ports = s.ports := by
  simp [expireHeld]

@[simp] theorem endCooling_ports (tag : Tag) : (endCooling tag s).ports = s.ports := by
  unfold endCooling
  dsimp only
  split <;> rfl

@[simp] theorem reportCompletion_ports (party : Party) (dec : Decision) :
    (reportCompletion party dec s).ports = s.ports := by
  unfold reportCompletion
  split
  · rfl
  · cases party <;> rfl

@[simp] theorem complete_ports (p : Port) (ch : Chan) (dec : Option Decision) (ns : List NoticeReq) :
    (complete p ch dec ns s).ports = s.ports.set p ((s.ports.get p).popIngress ch) := by
  cases dec <;> simp [complete]

@[simp] theorem endDone_ports (dec : Option Decision) (r : Result) :
    (endDone dec r s).ports = s.ports := by
  cases dec <;> simp [endDone]

@[simp] theorem endRefused_ports (h : HoldSlot) (status : AnswerStatus) (dec : Option Decision)
    (ns : List NoticeReq) (outcome : ReleaseOutcome) :
    (endRefused h status dec ns outcome s).ports = s.ports := by
  simp [endRefused]

@[simp] theorem endHeld_ports (h : HoldSlot) (code : ResultCode) : (endHeld h code s).ports = s.ports := by
  unfold endHeld
  dsimp only
  repeat' split
  all_goals simp

end Frames

/-! ### Answers to offers -/

theorem offerAnswer_of_pOffer {egress : Port} {dec : Decision} {s : State}
    (accepted : pOfferAnswer egress dec s = .accepted) : offerAnswer egress .p s = .accepted := by
  unfold pOfferAnswer at accepted
  split_ifs at accepted
  split at accepted <;> first | assumption | cases accepted

theorem offerAnswer_of_placed {e : TrackEntry} {s : State} (placed : placeAnswerOf e s = .placed) :
    offerAnswer e.egress .n s = .accepted := by
  unfold placeAnswerOf at placed
  split at placed
  · cases placed
  · assumption
  · split_ifs at placed

section Events

variable {s : State} (lawful : LawfulPorts s.ports)

include lawful

/-! ### Changes of link state (R170) -/

theorem lawfulPorts_enterTraining {p : Port} (down : (s.port p).state.down = true) :
    LawfulPorts (enterTraining p s).ports :=
  lawful.set ((lawful p).toTraining down rfl)

theorem lawfulPorts_enterRetraining {p : Port} (up : (s.port p).state = .up) :
    LawfulPorts (enterRetraining p s).ports :=
  lawful.set ((lawful p).toRetraining up rfl)

theorem lawfulPorts_enterUp {p : Port} {a : Attempt} (current : (s.port p).attempt = some a) :
    LawfulPorts (enterUp p a s).ports :=
  lawful.set ((lawful p).succeed current s.timebase)

theorem lawfulPorts_portDown (p : Port) : LawfulPorts (portDown p s).ports := by
  have same : (portDown p s).ports = s.ports.set p (((s.port p).goDown).fault p s.timebase) := by
    simp [portDown, dispatcherPortDown]
  rw [same]
  exact lawful.set (PortLaws.goDown_fault _ _)

theorem lawfulPorts_failAttempt {p : Port} {a : Attempt} (current : (s.port p).attempt = some a) :
    LawfulPorts (failAttempt p a s).ports := by
  unfold failAttempt enterFaulted
  dsimp only
  split_ifs with more retraining
  · exact lawful.set ((lawful p).repeated current more rfl)
  · exact lawfulPorts_portDown lawful p
  · obtain ⟨-, training⟩ | ⟨-, is⟩ := (lawful p).attempt_state current
    · exact lawful.set ((lawful p).fault_training training s.timebase)
    · exact absurd is retraining

/-! ### TRAINs (R171 to R174) -/

theorem lawfulPorts_arriveSpeed (p : Port) (mode lanes rate : Byte) :
    LawfulPorts (arriveSpeed p mode lanes rate s).ports := by
  unfold arriveSpeed
  split
  · next up => exact lawfulPorts_enterRetraining lawful up
  · split
    · next a current =>
      have fails := lawfulPorts_failAttempt lawful current
      unfold trainSpeed
      split
      · exact fails
      · split_ifs
        · exact fails
        · exact lawful.set ((lawful p).train current (by rfl) _)
        · exact lawful.set ((lawful p).train current rfl _)
        · exact fails
    · exact lawful

theorem lawfulPorts_takeIdent {p : Port} {a : Attempt} (current : (s.port p).attempt = some a)
    (unit : UnitNo) (free : Trio Nat) (last : SeqNo) :
    LawfulPorts (takeIdent p a unit free last s).ports := by
  have named : PortLaws p { s.port p with partnerUnit := some unit } := { lawful p with }
  have fails : LawfulPorts
      (failAttempt p a (s.setPort p { s.port p with partnerUnit := some unit })).ports :=
    lawfulPorts_failAttempt (lawful.set named) (by simpa using current)
  unfold takeIdent
  split
  · exact lawful.set (PortLaws.advance
      (lp := { s.port p with partnerUnit := some unit, acked := some 4095, credit := free })
      { named with } current rfl)
  · next resume =>
    dsimp only
    split
    · exact fails
    · next held _ =>
      split_ifs
      · obtain ⟨new, -⟩ | ⟨-, state⟩ := (lawful p).attempt_state current
        · exact nomatch new.symm.trans resume
        · have acked := named.applyAck (deadline := (s.port p).ackDeadline)
            (show ¬(s.ports.get p).state.down = true by rw [state]; nofun) held last free
            fun up => nomatch state.symm.trans up
          exact lawful.set (PortLaws.advance acked current rfl)
      · exact fails

theorem lawfulPorts_arriveIdent (p : Port) (unit : UnitNo) (free : Trio Nat) (last : SeqNo) :
    LawfulPorts (arriveIdent p unit free last s).ports := by
  unfold arriveIdent
  split
  · exact lawful
  · next a current =>
    split
    · exact lawful
    · exact lawfulPorts_takeIdent lawful current unit free last
    · exact lawful.set ((lawful p).train current rfl _)

omit lawful in
theorem readyAttempt_current {p : Port} {a : Attempt} (ready : readyAttempt p s = some a) :
    (s.port p).attempt = some a :=
  (Option.filter_eq_some_iff.1 ready).1

theorem lawfulPorts_arriveReady (p : Port) : LawfulPorts (arriveReady p s).ports := by
  unfold arriveReady
  split
  · exact lawful.set ((lawful p).owing _)
  · split
    · next ready => exact lawfulPorts_enterUp lawful (readyAttempt_current ready)
    · exact lawful

/-! ### Reception and acknowledgement (R177, R144) -/

theorem lawfulPorts_takeTraffic {p : Port} (up : (s.port p).state = .up) (pkt : Packet) (seq : SeqNo) :
    LawfulPorts (takeTraffic p pkt seq s).ports :=
  lawful.set ((lawful p).receive up pkt seq)

theorem lawfulPorts_takeAck {p : Port} (up : (s.port p).state = .up) (seq : SeqNo) (credit : Trio Nat) :
    LawfulPorts (takeAck p seq credit s).ports := by
  unfold takeAck
  dsimp only
  split
  · exact lawful
  · split_ifs
    · exact lawful.set ((lawful p).applyAck (not_down_of_up up) _ seq credit
        fun _ => ackDeadlineFor_eq_none _ _)
    · exact lawful

omit lawful in
theorem enterUp_up (p : Port) (a : Attempt) : ((enterUp p a s).port p).state = .up := by
  simp [enterUp, State.port, LinkPort.succeed]

theorem lawfulPorts_arriveTraffic (p : Port) (pkt : Packet) (seq : SeqNo) :
    LawfulPorts (arriveTraffic p pkt seq s).ports := by
  unfold arriveTraffic
  split
  · next up => exact lawfulPorts_takeTraffic lawful up pkt seq
  · split
    · next a ready =>
      exact lawfulPorts_takeTraffic (lawfulPorts_enterUp lawful (readyAttempt_current ready))
        (enterUp_up p a) pkt seq
    · exact lawful

theorem lawfulPorts_arriveAck (p : Port) (seq : SeqNo) (credit : Trio Nat) :
    LawfulPorts (arriveAck p seq credit s).ports := by
  unfold arriveAck
  split
  · next up => exact lawfulPorts_takeAck lawful up seq credit
  · split
    · next a ready =>
      exact lawfulPorts_takeAck (lawfulPorts_enterUp lawful (readyAttempt_current ready))
        (enterUp_up p a) seq credit
    · exact lawful

/-! ### Replay and transmission (R178, R151) -/

theorem lawfulPorts_arriveReplayReq (p : Port) (seq : SeqNo) :
    LawfulPorts (arriveReplayReq p seq s).ports := by
  unfold arriveReplayReq
  split_ifs with up
  · have laws := lawful p
    unfold takeReplayReq
    dsimp only
    split_ifs with unsent none fourth
    · exact lawful
    · exact lawful.set (laws.replays (fun _ mem => absurd mem List.not_mem_nil) laws.rounds_bound)
    · exact lawfulPorts_enterRetraining lawful up
    · refine lawful.set (laws.replays (fun q mem => ?_) (Nat.lt_of_le_of_ne laws.rounds_bound fourth))
      obtain ⟨k, held, is⟩ := List.mem_map.1 mem
      exact ⟨k, (List.mem_filter.1 held).1, is⟩
  · exact lawful

theorem lawfulPorts_transmit (p : Port) : LawfulPorts (transmit p s).ports := by
  unfold transmit
  dsimp only
  split_ifs with due
  · exact lawful
  · split
    · exact lawful
    · next ch chosen =>
      obtain ⟨up, room⟩ := chosen_spec chosen
      split
      · exact lawful
      · next slot fromFence head =>
        have sent := lawful.set ((lawful p).transmitHead up room s.timebase ch slot fromFence)
        split_ifs
        · exact sent
        · exact sent

theorem lawfulPorts_ackDeadlineExpiry {p : Port} (due : dueAck reached p s = true) :
    LawfulPorts (if (s.port p).replayStore = [] then s.setPort p { s.port p with ackDeadline := none }
      else enterRetraining p s).ports := by
  have up : (s.port p).state = .up := by
    simp only [dueAck, Bool.and_eq_true, decide_eq_true_eq] at due
    exact due.1
  split_ifs with empty
  · exact lawful.set ((lawful p).deadlineOver up empty)
  · exact lawfulPorts_enterRetraining lawful up

/-! ### Dispatches -/

@[simp] theorem lawfulPorts_refuse (p : Port) (ch : Chan) (req : Packet) (status : ReplyStatus)
    (dec : Option Decision) (ns : List NoticeReq) :
    LawfulPorts (refuse p ch req status dec ns s).ports := by
  unfold refuse
  split_ifs with write accepted
  · simp [lawful]
  · simp [lawful, accepted]
  · simp [lawful]

@[simp] theorem lawfulPorts_apertureAccess (p : Port) (ch : Chan) (req : Packet) :
    LawfulPorts (apertureAccess p ch req s).ports := by
  unfold apertureAccess
  split_ifs with write past room accepted
  · simp [lawful]
  · simp [lawful]
  · simp [lawful]
  · simp [lawful, accepted]
  · simp [lawful]

@[simp] theorem lawfulPorts_carryOut (p : Port) (ch : Chan) (req : Packet) (dec : Decision) :
    LawfulPorts (carryOut p ch req dec s).ports := by
  unfold carryOut egressDown
  repeat' split
  all_goals simp [lawful]

@[simp] theorem lawfulPorts_dispatchRequest (p : Port) (ch : Chan) (slot : InSlot) :
    LawfulPorts (dispatchRequest p ch slot s).ports := by
  unfold dispatchRequest refuseMalformed fenceDispatch
  dsimp only
  repeat' split
  all_goals simp [*]

theorem lawfulPorts_dispatchHead (p : Port) : LawfulPorts (dispatchHead p s).ports := by
  unfold dispatchHead
  repeat' split
  all_goals simp [lawful]

theorem lawfulPorts_dispatcherHoldOffer (p : Port) : LawfulPorts (dispatcherHoldOffer p s).ports := by
  unfold dispatcherHoldOffer
  repeat' split
  all_goals simp [*]

theorem lawfulPorts_dispatcherPOffer (p : Port) : LawfulPorts (dispatcherPOffer p s).ports := by
  unfold dispatcherPOffer egressDown
  split
  · split
    · split
      · next accepted => simp [lawful, offerAnswer_of_pOffer accepted]
      · simp [lawful]
      · simp [lawful]
      · simp [lawful]
    · exact lawful
  · exact lawful

theorem lawfulPorts_dispatcherAllocation (p : Port) :
    LawfulPorts (dispatcherAllocation p s).ports := by
  unfold dispatcherAllocation
  repeat' split
  all_goals simp [lawful]

theorem lawfulPorts_dispatcherPlacement (p : Port) :
    LawfulPorts (dispatcherPlacement p s).ports := by
  unfold dispatcherPlacement
  split
  · split
    · next placed => simp [lawful, offerAnswer_of_placed placed]
    · simp [lawful]
    · simp [lawful]
    · simp [lawful]
  · exact lawful

/-! ### Replies -/

theorem lawfulPorts_presentReply (p : Port) (reply : Packet) :
    LawfulPorts (presentReply p reply s).ports := by
  unfold presentReply discardLate consumeFenceReply discardOrphan
  repeat' split
  all_goals simp [lawful]

theorem lawfulPorts_takeReply (p : Port) (reply : Packet) (e : TrackEntry) :
    LawfulPorts (takeReply p reply e s).ports := by
  unfold takeReply
  repeat' split
  all_goals simp [*]

theorem lawfulPorts_placeClosing (p : Port) : LawfulPorts (placeClosing p s).ports := by
  unfold placeClosing
  repeat' split
  all_goals simp [*]

theorem lawfulPorts_placeAnswer (p : Port) : LawfulPorts (placeAnswer p s).ports := by
  unfold placeAnswer
  repeat' split
  all_goals simp [*]

/-! ### Releases -/

theorem lawfulPorts_endWait : LawfulPorts (endWait s).ports := by
  unfold endWait
  repeat' split
  all_goals simp [lawful]

theorem lawfulPorts_releaseLookup (r : Release) (h : HoldSlot) :
    LawfulPorts (releaseLookup r h s).ports := by
  unfold releaseLookup
  dsimp only
  repeat' split
  all_goals simp [lawful]

theorem lawfulPorts_releasePOffer (r : Release) (h : HoldSlot) (dec : Decision) :
    LawfulPorts (releasePOffer r h dec s).ports := by
  unfold releasePOffer
  split
  · split
    · next accepted => simp [lawful, offerAnswer_of_pOffer accepted]
    · simp [lawful]
    · simp [lawful]
    · simp [lawful]
  · exact lawful

theorem lawfulPorts_releaseAllocation (r : Release) (h : HoldSlot) (dec : Decision) :
    LawfulPorts (releaseAllocation r h dec s).ports := by
  unfold releaseAllocation
  repeat' split
  all_goals simp [lawful]

theorem lawfulPorts_releasePlacement (h : HoldSlot) (dec : Decision) (e : TrackEntry) :
    LawfulPorts (releasePlacement h dec e s).ports := by
  unfold releasePlacement
  split
  · next placed => simp [lawful, offerAnswer_of_placed placed]
  · simp [lawful]
  · simp [lawful]
  · simp [lawful]

theorem lawfulPorts_nextReleaseStep : LawfulPorts (nextReleaseStep s).ports := by
  unfold nextReleaseStep
  split
  · next r h _ =>
    split
    · exact lawful
    · exact lawfulPorts_releaseLookup lawful r h
    · exact lawfulPorts_releasePOffer lawful r h _
    · exact lawfulPorts_releaseAllocation lawful r h _
    · exact lawfulPorts_releasePlacement lawful h _ _
  · exact lawful

/-- The offers of the release in progress (R34, R50, R35). -/
theorem lawfulPorts_holdOffers : LawfulPorts (holdPOffer s).ports ∧
    LawfulPorts (holdAllocation s).ports ∧ LawfulPorts (holdPlacement s).ports := by
  refine ⟨?_, ?_, ?_⟩
  · unfold holdPOffer
    repeat' split
    · exact lawfulPorts_releasePOffer lawful _ _ _
    all_goals exact lawful
  · unfold holdAllocation
    repeat' split
    · exact lawfulPorts_releaseAllocation lawful _ _ _
    all_goals exact lawful
  · unfold holdPlacement
    repeat' split
    · exact lawfulPorts_releasePlacement lawful _ _ _
    all_goals exact lawful

end Events

end Sys2Proof
end

section
/-! PROOFS. The commands of the Management Unit keep the laws of the link ports, and what follows for every
command and every step. -/

namespace Sys2Proof

open Machine

/-! ### Ports that the Management Unit leaves alone -/

theorem setParam_ports (v : ParamValue) (s : State) : (setParam v s).2.ports = s.ports := by
  cases v with
  | replyTimeout | holdLimit | linkPref => rfl
  | default | noticeTarget | unit =>
    simp only [setParam]
    split_ifs <;> rfl

theorem startRelease_ports (body : List Byte) (s : State) : (startRelease body s).state.ports = s.ports := by
  unfold startRelease
  dsimp only
  split_ifs
  · rfl
  · split <;> rfl

theorem captureRead_ports (s : State) : (captureRead s).ports = s.ports := by
  unfold captureRead
  split <;> simp

theorem headAccesses_ports (s : State) :
    (takeWarmReset s).ports = s.ports ∧ (takeMalformed s).ports = s.ports ∧
      (takeUnsupported s).ports = s.ports ∧ (takeNotManager s).ports = s.ports := by
  refine ⟨?_, ?_, ?_, ?_⟩
  · unfold takeWarmReset; split <;> simp
  · unfold takeMalformed; split <;> simp
  · unfold takeUnsupported; split <;> simp
  · unfold takeNotManager; split <;> simp

theorem takeRelease_ports (s : State) : (takeRelease s).ports = s.ports := by
  unfold takeRelease
  split
  · next body _ =>
    have started := startRelease_ports body s
    split
    · next r u came => rw [came] at started; exact (answerHead_ports _ _ u).trans started
    · next u came => rw [came] at started; exact (setHeadState_ports _ u).trans started
  · rfl

section Events

variable {s : State} (lawful : LawfulPorts s.ports)

include lawful

/-! ### Commands -/

/-- A swap changes the ports by placing drain fence packets (R96). -/
theorem lawfulPorts_takeSwap : LawfulPorts (takeSwap s).ports := by
  have placed : (takeSwap s).ports =
      ⟨s.ports.u.placeFence .u (s.unit .u), s.ports.d.placeFence .d (s.unit .d)⟩ := by
    simp [takeSwap]
  rw [placed]
  intro p
  cases p with
  | u => exact (lawful .u).placeFence .u _
  | d => exact (lawful .d).placeFence .d _

/-- What a command does, alone or as a member of a batch, keeps the laws. -/
theorem lawfulPorts_runCommand (code : CommandCode) (body : List Byte) :
    LawfulPorts (runCommand code body s).state.ports := by
  have edited (edit : EditResult) : LawfulPorts (applyEdit edit s).2.ports := by
    rw [applyEdit_ports]; exact lawful
  cases code with
  | insert => exact edited _
  | remove => exact edited _
  | modify => exact edited _
  | move => exact edited _
  | clearStaging => exact edited _
  | commit =>
    simp only [runCommand, runCommit]
    split_ifs
    · exact lawful
    · exact lawful
    · exact lawfulPorts_takeSwap lawful
  | forceDrain =>
    simp only [runCommand, runForceDrain]
    split_ifs
    · exact (forceDrain_ports s).symm ▸ lawful
    · exact lawful
  | release => exact (startRelease_ports body s).symm ▸ lawful
  | discard =>
    simp only [runCommand, runDiscard]
    split_ifs
    · exact lawful
    · split
      · exact lawful
      · exact (refuseHeld_ports _ _ s).symm ▸ lawful
  | setParam =>
    simp only [runCommand, runSetParam]
    split
    · exact lawful
    · exact (setParam_ports _ s).symm ▸ lawful
  | setAperture =>
    simp only [runCommand, runSetAperture]
    split_ifs <;> exact lawful
  | setManagers =>
    simp only [runCommand, runSetManagers]
    split_ifs <;> exact lawful
  | linkRestart =>
    simp only [runCommand, runLinkRestart]
    split_ifs with restart
    · exact lawfulPorts_enterTraining lawful (by rw [restart.2]; rfl)
    · exact lawful
  | lockManagers | nop | warmReset | batch => exact lawful

theorem lawfulPorts_takeCommand {code : CommandCode} {run : List Byte → CommandRun}
    (runs : ∀ body, (runCommand code body s).state = (run body s).2) :
    LawfulPorts (takeCommand code run s).ports := by
  unfold takeCommand
  split
  · next body _ =>
    split_ifs
    · rw [answerHead_ports, ← runs]
      exact lawfulPorts_runCommand lawful code body
    · exact lawful
  · exact lawful

theorem lawfulPorts_runMember (code : CommandCode) (body : List Byte) (last : Bool) :
    LawfulPorts (runMember code body last s).state.ports := by
  unfold runMember
  split_ifs
  · exact lawful
  · exact lawfulPorts_runCommand lawful code body

/-- The execution pass of a batch runs its members one after the other (R121). -/
theorem lawfulPorts_runMembers (members : Nat) (run : BatchRun) :
    LawfulPorts (runMembers members run s).ports := by
  induction members generalizing run s with
  | zero => exact (setHeadState_ports _ s).symm ▸ lawful
  | succ members ih =>
    unfold runMembers
    split
    · exact (answerHead_ports _ _ s).symm ▸ lawful
    next code body rest _ =>
      have member := lawfulPorts_runMember lawful code body rest.isEmpty
      split
      · next r u came =>
        rw [came] at member
        have answered (i : Nat) : LawfulPorts (answerHead r i u).ports :=
          (answerHead_ports r i u).symm ▸ member
        split_ifs
        · exact answered _
        · exact ih member _
        · exact answered _
      · next u came =>
        rw [came] at member
        exact (setHeadState_ports _ u).symm ▸ member

theorem lawfulPorts_takeBatch (members : Nat) : LawfulPorts (takeBatch members s).ports := by
  unfold takeBatch
  split
  · split
    · exact (answerHead_ports _ _ s).symm ▸ lawful
    · exact lawfulPorts_runMembers lawful members _
  · repeat' split
    · exact lawfulPorts_runMembers lawful members _
    all_goals exact lawful

/-! ### Replies of the head, and notices -/

/-- A reply enters U's C transmit queue when it accepts the reply (R116). -/
theorem lawfulPorts_placeReply (accepted : offerAnswer .u .c s = .accepted) (slot : CommandSlot)
    (status : ReplyStatus) (payload : List Byte) :
    LawfulPorts (placeReply slot status payload s).ports := by
  simp [placeReply, lawful, accepted]

theorem lawfulPorts_warmResetAll : LawfulPorts (warmResetAll s).ports := by
  obtain ⟨order, -, -, reset⟩ := warmResetAll_eq s
  rw [reset]
  intro p
  cases p with
  | u => exact (lawful .u).warmIngress _
  | d => exact (lawful .d).warmIngress _

theorem lawfulPorts_offerReply : LawfulPorts (offerReply s).ports := by
  unfold offerReply
  split
  · exact lawful
  next slot _ _ =>
    split
    · next accepted =>
      have placed := lawfulPorts_placeReply lawful accepted slot
      split
      · dsimp only
        split
        · exact lawfulPorts_warmResetAll (placed _ _)
        · exact placed _ _
      · exact placed _ _
      · exact lawful
    · exact lawful

theorem lawfulPorts_takePop : LawfulPorts (takePop s).ports := by
  unfold takePop
  split
  · exact lawful
  · split
    · next accepted => exact lawfulPorts_placeReply (s := popNotice s) lawful accepted _ _ _
    · exact (setHeadState_ports _ s).symm ▸ lawful

theorem lawfulPorts_emitNotice : LawfulPorts (emitNotice s).ports := by
  unfold emitNotice
  split
  · exact lawful
  · split
    · next accepted => exact lawful.enqueue accepted _
    · exact lawful

end Events

/-! ### Every command -/

theorem exec_keeps_portLaws {c : Instr} {s t : State} (lawful : LawfulPorts s.ports)
    (h : exec c s = .next t) : LawfulPorts t.ports := by
  obtain ⟨warm, malformed, unsupported, notManager⟩ := headAccesses_ports s
  obtain ⟨pOffer, allocation, placement⟩ := lawfulPorts_holdOffers lawful
  cases c with
  | coldReset strap =>
    cases h
    intro p
    cases p <;> exact portLaws_cold _
  | nop | insert | remove | modify | move | clearStaging | commit | forceDrain | discard | setParam
  | setAperture | setManagers | lockManagers | linkRestart =>
    cases h; exact lawfulPorts_takeCommand lawful fun _ => rfl
  | batch members => cases h; exact lawfulPorts_takeBatch lawful members
  | commandReplyPlacement =>
    cases h; exact lawfulPorts_offerReply ((captureRead_ports s).symm ▸ lawful)
  | release => cases h; exact (takeRelease_ports s).symm ▸ lawful
  | warmReset => cases h; exact warm.symm ▸ lawful
  | malformedCommandBlock => cases h; exact malformed.symm ▸ lawful
  | unsupportedApertureAccess => cases h; exact unsupported.symm ▸ lawful
  | notManagerRefusal => cases h; exact notManager.symm ▸ lawful
  | noticePop => cases h; exact lawfulPorts_takePop lawful
  | noticeEmission => cases h; exact lawfulPorts_emitNotice lawful
  | dispatch p => cases h; exact lawfulPorts_dispatchHead lawful p
  | holdOffer p => cases h; exact lawfulPorts_dispatcherHoldOffer lawful p
  | pTransmitOffer party =>
    cases h
    cases party with
    | dispatcher p => exact lawfulPorts_dispatcherPOffer lawful p
    | hold => exact pOffer
  | tagAllocation party =>
    cases h
    cases party with
    | dispatcher p => exact lawfulPorts_dispatcherAllocation lawful p
    | hold => exact allocation
  | nTransmitPlacement party =>
    cases h
    cases party with
    | dispatcher p => exact lawfulPorts_dispatcherPlacement lawful p
    | hold => exact placement
  | hitCountReport party =>
    cases h
    split <;> exact lawful
  | replyPresentation p =>
    cases h
    split
    · exact lawfulPorts_presentReply lawful p _
    · exact lawful
  | replyTake p =>
    cases h
    split
    · exact lawfulPorts_takeReply lawful p _ _
    · exact lawful
  | entryExpiry | drainFenceExpiry | orphanedExpiry | coolingExpiry | holdExpiry =>
    cases h
    split <;> simp [lawful]
  | closingReplyPlacement p => cases h; exact lawfulPorts_placeClosing lawful p
  | holdAnswerPlacement p => cases h; exact lawfulPorts_placeAnswer lawful p
  | releaseWaitEnd => cases h; exact lawfulPorts_endWait lawful
  | releaseSteps => cases h; exact lawfulPorts_nextReleaseStep lawful
  | referenceClockStable p =>
    cases h
    split
    · next offline => exact lawfulPorts_enterTraining lawful (by rw [offline]; rfl)
    · exact lawful
  | holdOffExpiry =>
    cases h
    split
    · next due =>
      have faulted : (s.port .u).state = .faulted := by
        simp only [dueHoldOff, Bool.and_eq_true, decide_eq_true_eq] at due
        exact due.1
      exact lawfulPorts_enterTraining lawful (by rw [faulted]; rfl)
    · exact lawful
  | attemptDeadlineExpiry p =>
    cases h
    split
    · next a due => exact lawfulPorts_failAttempt lawful (Option.filter_eq_some_iff.1 due).1
    · exact lawful
  | ackDeadlineExpiry p =>
    cases h
    split
    · next due => exact lawfulPorts_ackDeadlineExpiry lawful due
    · exact lawful
  | sendTrain p => cases h; exact lawful.set (lawful p).sendTrain
  | sendAck p =>
    cases h
    split
    · exact lawful.set { lawful p with }
    · exact lawful
  | sendReplayReq p =>
    cases h
    split
    · exact lawful.set { lawful p with }
    · exact lawful
  | replayResend p =>
    cases h
    split
    · exact lawful.set (lawful p).resend
    · exact lawful
  | transmitPacket p => cases h; exact lawfulPorts_transmit lawful p
  | speedReceived p wire =>
    cases h
    split
    · exact lawfulPorts_arriveSpeed lawful p _ _ _
    · exact lawful
  | identReceived p wire =>
    cases h
    split
    · exact lawfulPorts_arriveIdent lawful p _ _ _
    · exact lawful
  | readyReceived p wire =>
    cases h
    split
    · exact lawfulPorts_arriveReady lawful p
    · split
      · exact lawfulPorts_arriveTraffic lawful p _ _
      · exact lawful
    · split
      · exact lawfulPorts_arriveAck lawful p _ _
      · exact lawful
    · exact lawful
  | receivePacket p wire =>
    cases h
    split
    · exact lawfulPorts_arriveTraffic lawful p _ _
    · split
      · exact lawful.set (lawful p).requestReplay
      · exact lawful
    · exact lawful
  | ackReceived p wire =>
    cases h
    split
    · exact lawfulPorts_arriveAck lawful p _ _
    · exact lawful
  | replayReqReceived p wire =>
    cases h
    split
    · exact lawfulPorts_arriveReplayReq lawful p _
    · exact lawful

/-- Settles O58: a microsecond leaves the ports alone, and every command keeps their laws. -/
theorem portLawsAreKept : Obligations.PortLawsAreKept := by
  intro s t laws h
  rcases step_cases h with rfl | ⟨c, pending, ran⟩
  · exact laws
  · exact exec_keeps_portLaws (s := { s with pending := pending }) laws ran

end Sys2Proof
end

section
/-! PROOFS. What a packet that arrives is to the link port it arrives on, and the ACKs and REPLAY_REQs taken
while UP (R144, R167, R178). -/

namespace Sys2Proof

open Machine

/-! ### Arriving packets -/

section Arrivals

variable {wire : List Byte} (p : Port) (s : State)

theorem exec_speedReceived {mode lanes rate : Byte} (read : readWire wire = .speed mode lanes rate) :
    exec (.speedReceived p wire) s = .next (arriveSpeed p mode lanes rate s) := by
  simp only [exec, execSpeedReceived, read]

theorem exec_identReceived {unit : UnitNo} {free : Trio Nat} {last : SeqNo}
    (read : readWire wire = .ident unit free last) :
    exec (.identReceived p wire) s = .next (arriveIdent p unit free last s) := by
  simp only [exec, execIdentReceived, read]

theorem exec_readyReceived (read : readWire wire = .ready) :
    exec (.readyReceived p wire) s = .next (arriveReady p s) := by
  simp only [exec, execReadyReceived, read]

theorem exec_receivePacket_traffic {pkt : Packet} {seq : SeqNo} (read : readWire wire = .traffic pkt seq) :
    exec (.receivePacket p wire) s = .next (arriveTraffic p pkt seq s) := by
  simp only [exec, execReceivePacket, read]

theorem exec_ackReceived {seq : SeqNo} {credit : Trio Nat} (read : readWire wire = .ack seq credit) :
    exec (.ackReceived p wire) s = .next (arriveAck p seq credit s) := by
  simp only [exec, execAckReceived, read]

theorem exec_replayReqReceived {seq : SeqNo} (read : readWire wire = .replayReq seq) :
    exec (.replayReqReceived p wire) s = .next (arriveReplayReq p seq s) := by
  simp only [exec, execReplayReqReceived, read]

end Arrivals

/-! ### Acknowledgement (R144, R176) -/

theorem inWindow_iff {lp : LinkPort} {held : SeqNo} (acked : lp.acked = some held) (seq : SeqNo) :
    lp.inWindow seq = true ↔ InWindow lp held seq := by
  unfold LinkPort.inWindow InWindow
  rw [acked]
  exact decide_eq_true_iff

theorem applyAck_eq (lp : LinkPort) (held seq : SeqNo) (credit : Trio Nat) :
    lp.applyAck held seq credit = acknowledged held seq credit lp := by
  have kept : (fun pkt => !covers held seq pkt) =
      fun pkt : SentPacket => decide ((seq - held).toNat ≤ (pkt.seq - held - 1).toNat) := by
    funext pkt
    rw [covers, ← sub_sub, ← decide_not]
    simp only [Nat.not_lt]
  unfold LinkPort.applyAck acknowledged
  rw [kept]

/-- An ACK taken over a held number, in the window and outside it. -/
theorem takeAck_eq {p : Port} {s : State} {held : SeqNo} (acked : (s.port p).acked = some held)
    (seq : SeqNo) (credit : Trio Nat) :
    (InWindow (s.port p) held seq → takeAck p seq credit s = withPort p
      { acknowledged held seq credit (s.port p) with
        ackDeadline :=
          if (acknowledged held seq credit (s.port p)).replayStore = [] then none
          else some (s.timebase + 1000) } s) ∧
    (¬InWindow (s.port p) held seq → takeAck p seq credit s = s) := by
  rw [← inWindow_iff acked]
  unfold takeAck
  simp only [acked, applyAck_eq]
  exact ⟨fun inside => if_pos inside, fun outside => if_neg outside⟩

/-! ### Replay requests (R178) -/

section ReplayRequest

variable {p : Port} {s : State} {seq : SeqNo}

theorem takeReplayReq_notSent (unsent : NotSent (s.port p) seq) : takeReplayReq p seq s = s :=
  if_pos ((notSent_iff _ _).2 unsent)

variable (sent : ¬NotSent (s.port p) seq)

include sent

theorem takeReplayReq_nothing (nothing : packetsAfter (s.port p) seq = []) :
    takeReplayReq p seq s = withPort p { s.port p with replayLeft := [] } s :=
  (if_neg (mt (notSent_iff _ _).1 sent)).trans (if_pos nothing)

theorem takeReplayReq_round (some : packetsAfter (s.port p) seq ≠ []) (more : (s.port p).rounds < 4) :
    takeReplayReq p seq s = withPort p
      { s.port p with
        rounds := (s.port p).rounds + 1
        replayLeft := (packetsAfter (s.port p) seq).map (·.seq) } s :=
  (if_neg (mt (notSent_iff _ _).1 sent)).trans
    ((if_neg some).trans (if_neg (Nat.ne_of_lt more)))

end ReplayRequest

/-- Settles O12: an ACK by where its number lies, a REPLAY_REQ by what the port holds after its number. -/
theorem acknowledgementAndReplayRequestAreTaken : Obligations.AcknowledgementAndReplayRequestAreTaken := by
  refine ⟨fun p s wire seq held credit up read acked => ?ack, fun p s wire seq up read => ?request⟩
  case ack =>
    have taken : arriveAck p seq credit s = takeAck p seq credit s := if_pos up
    obtain ⟨inside, outside⟩ := takeAck_eq acked seq credit
    rw [exec_ackReceived p s read, taken]
    exact ⟨fun window => by rw [inside window], fun window => by rw [outside window]⟩
  case request =>
    have taken : arriveReplayReq p seq s = takeReplayReq p seq s := if_pos up
    rw [exec_replayReqReceived p s read, taken]
    refine ⟨fun unsent => ?_, fun sent nothing => ?_, fun sent some more => ?_⟩
    · rw [takeReplayReq_notSent unsent]
    · rw [takeReplayReq_nothing sent nothing]
    · rw [takeReplayReq_round sent some more]

end Sys2Proof
end

section
/-! PROOFS. What an UP port sends: link control, the packets of a replay, and the head that its arbiter chooses
(R142, R149 to R151, R177, R178). -/

namespace Sys2Proof

open Machine

/-! ### Link control and replay -/

/-- Nothing is due ahead of the replay and the three channels. -/
theorem controlDue_eq_false (lp : LinkPort) : lp.controlDue = false ↔
    lp.ackOwed = false ∧ lp.replayReqs = [] ∧ lp.owedTrains = [] := by
  simp [LinkPort.controlDue, and_assoc]

/-- Settles O13: an owed ACK, the oldest REPLAY_REQ due, and the next packet of a replay. -/
theorem linkControlAndReplayAreSent : Obligations.LinkControlAndReplayAreSent := by
  intro p s up lp
  refine ⟨fun owed => ?ack, fun seq later due => ?request,
    fun q rest pkt ack requests trains left held => ?replay⟩
  case ack =>
    have sends : exec (.sendAck p) s = .next (s.setPort p lp.sendAck) :=
      congrArg _ (if_pos ⟨up, owed⟩)
    exact sends
  case request =>
    simp only [exec, execSendReplayReq, up, show (s.port p).replayReqs = seq :: later from due]
    rfl
  case replay =>
    have idle : lp.controlDue = false := (controlDue_eq_false lp).2 ⟨ack, requests, trains⟩
    have resent : lp.resend = { lp with
        replayLeft := rest, wire := some (sealed (packetBytes pkt.packet pkt.seq)) } := by
      unfold LinkPort.resend
      simp only [left, held]
      rfl
    have sends : exec (.replayResend p) s = .next (s.setPort p lp.resend) :=
      congrArg _ (if_pos ⟨up, idle⟩)
    rw [sends, resent]
    rfl

/-! ### The arbiter (R149, R150) -/

theorem chosen_iff (lp : LinkPort) (ch : Chan) : lp.chosen = some ch ↔ HeadSendable lp ch ∧
    (ch = lp.pointer ∨ ch = lp.pointer.next ∧ ¬HeadSendable lp lp.pointer ∨
      ch = lp.pointer.next.next ∧ ¬HeadSendable lp lp.pointer ∧ ¬HeadSendable lp lp.pointer.next) := by
  simp only [headSendable_iff]
  exact find?_cycle lp.sendable lp.pointer ch

theorem chosen_eq_none {lp : LinkPort} (no : ∀ ch, ¬HeadSendable lp ch) : lp.chosen = none :=
  Option.eq_none_iff_forall_not_mem.2 fun ch chosen => no ch ((chosen_iff lp ch).1 chosen).1

section Transmission

variable {p : Port} {s : State}

/-- Nothing is transmitted while link control or a replay is due, or with no head to send. -/
theorem transmit_eq_self (busy : (s.port p).controlDue = true ∨ (s.port p).replayLeft ≠ [] ∨
    (s.port p).chosen = none) : transmit p s = s := by
  unfold transmit
  dsimp only
  split
  · rfl
  · next free =>
    obtain due | left | none := busy
    · simp [due] at free
    · simp [left] at free
    · rw [none]

theorem transmit_chosen {ch : Chan} {slot : OutSlot} {fromFence : Bool}
    (idle : (s.port p).controlDue = false) (left : (s.port p).replayLeft = [])
    (chosen : (s.port p).chosen = some ch) (head : (s.port p).headOf ch = some (slot, fromFence)) :
    let sent := s.setPort p ((s.port p).transmitHead s.timebase ch slot fromFence)
    transmit p s = if fromFence then sent else clearMarks (.transmit p ch) sent := by
  simp [transmit, idle, left, chosen, head]

end Transmission

/-- What the transmission of a head makes of the port (R151). -/
theorem transmitHead_eq (lp : LinkPort) (now : Time) (ch : Chan) (slot : OutSlot) (fromFence : Bool) :
    lp.transmitHead now ch slot fromFence = { lp with
      transmit := if fromFence then lp.transmit else lp.transmit.set ch (lp.transmit.get ch).tail
      fenceSlot := if fromFence then none else lp.fenceSlot
      txNext := lp.txNext + 1
      replayStore := lp.replayStore ++ [⟨lp.txNext, slot.packet⟩]
      ackDeadline := if lp.replayStore = [] then some (now + 1000) else lp.ackDeadline
      pointer := ch.next
      wire := some (sealed (packetBytes slot.packet lp.txNext)) } := by
  cases fromFence <;> rfl

/-- Settles O14: the choice is the first sendable head of the cycle, and it is sent when nothing else is due. -/
theorem chosenHeadIsTransmitted : Obligations.ChosenHeadIsTransmitted := by
  refine ⟨⟨rfl, rfl, rfl⟩, chosen_iff, fun p s => ?_⟩
  intro lp
  refine ⟨fun no => ?none, fun due => ?due,
    fun ch slot fromFence ack requests trains left chosen head => ?sent⟩
  case none => exact congrArg _ (transmit_eq_self (.inr (.inr (chosen_eq_none no))))
  case due =>
    refine congrArg _ (transmit_eq_self (or_iff_not_imp_left.2 fun idle => .inl ?_))
    obtain ⟨ack, requests, trains⟩ := (controlDue_eq_false lp).1 (Bool.eq_false_of_not_eq_true idle)
    simpa [lp, ack, requests, trains] using due
  case sent =>
    have transmitted := transmit_chosen ((controlDue_eq_false lp).2 ⟨ack, requests, trains⟩) left chosen
      ((competes_iff lp ch slot fromFence).1 head)
    rw [transmitHead_eq] at transmitted
    exact congrArg _ transmitted

end Sys2Proof
end

section
/-! PROOFS. The partner's SPEED and IDENT in training, and what a port in training discards (R171 to R174). -/

namespace Sys2Proof

open Machine

/-! ### The partner's SPEED (R172) -/

/-- TRAINs fall due while the attempt goes on as it is. -/
theorem train_current {lp : LinkPort} {a : Attempt} (current : lp.attempt = some a) (due : List Phase) :
    lp.train a due = { lp with owedTrains := lp.owedTrains ++ due } := by
  unfold LinkPort.train
  rw [← current]

theorem agree_lanes (a b : Offer) :
    laneCount (a.agree b).lanes = min (laneCount a.lanes) (laneCount b.lanes) := by
  rw [laneCount_eq]
  unfold Offer.agree
  rw [Nat.min_def]
  split_ifs <;> rfl

theorem agree_rate (a b : Offer) :
    gigabits (a.agree b).rate = min (gigabits a.rate) (gigabits b.rate) := by
  rw [gigabits_eq]
  unfold Offer.agree
  rw [Nat.min_def]
  split_ifs <;> rfl

section Training

variable {p : Port} {s : State} {a : Attempt}

theorem arriveSpeed_noAttempt (notUp : (s.port p).state ≠ .up) (none : (s.port p).attempt = none)
    (mode lanes rate : Byte) : arriveSpeed p mode lanes rate s = s := by
  unfold arriveSpeed
  rw [if_neg notUp, none]

theorem arriveSpeed_attempt (notUp : (s.port p).state ≠ .up) (current : (s.port p).attempt = some a)
    (mode lanes rate : Byte) : arriveSpeed p mode lanes rate s = trainSpeed p a mode lanes rate s := by
  unfold arriveSpeed
  rw [if_neg notUp, current]

section Speed

variable {o : Offer} {mode lanes rate : Byte} (offer : Offers o lanes rate) (same : mode = modeByte a.mode)

include offer same

/-- The first SPEED of an attempt is taken, and IDENT begins. -/
theorem trainSpeed_taken (phase : a.phase = .speed) : trainSpeed p a mode lanes rate s =
    withPort p { s.port p with
      attempt := some { a with
        phase := .ident, partner := some o, agreed := some (a.offer.agree o)
        unit := s.mgmt.params.unit.get p }
      owedTrains := (s.port p).owedTrains ++ [.ident] } s := by
  unfold trainSpeed
  rw [(offers_iff o lanes rate).1 offer]
  dsimp only
  rw [if_neg (not_not.2 (same.trans (congrFun modeByte_eq _))), if_pos phase]
  rfl

/-- The same SPEED again brings the port's own once more. -/
theorem trainSpeed_again (current : (s.port p).attempt = some a) (phase : a.phase ≠ .speed)
    (partner : a.partner = some o) : trainSpeed p a mode lanes rate s =
    withPort p { s.port p with owedTrains := (s.port p).owedTrains ++ [.speed] } s := by
  unfold trainSpeed
  rw [(offers_iff o lanes rate).1 offer]
  dsimp only
  rw [if_neg (not_not.2 (same.trans (congrFun modeByte_eq _))), if_neg phase, if_pos partner,
    train_current current]
  rfl

end Speed

/-- A SPEED that gives no offer, another mode, or another offer than the one taken fails the attempt. -/
theorem trainSpeed_fails {mode lanes rate : Byte}
    (wrong : (∀ o, ¬Offers o lanes rate) ∨ mode ≠ modeByte a.mode ∨
      a.phase ≠ .speed ∧ (∀ o, Offers o lanes rate → a.partner ≠ some o)) :
    trainSpeed p a mode lanes rate s = failAttempt p a s := by
  simp only [offers_iff, modeByte_eq] at wrong
  unfold trainSpeed
  split
  · rfl
  · next o offer =>
    obtain no | mode | ⟨phase, other⟩ := wrong
    · exact absurd offer (no o)
    · rw [if_pos mode]
    · rw [if_neg phase, if_neg (other o offer), ite_self]

/-! ### The partner's IDENT (R173) -/

theorem advance_eq_identExchanged (phase : a.phase = .ident) (lp : LinkPort) :
    lp.advance { a with identTaken := true } = identExchanged a lp := by
  unfold LinkPort.advance identExchanged LinkPort.train
  cases sent : a.identSent <;> simp [phase]

theorem arriveIdent_ident (current : (s.port p).attempt = some a) (phase : a.phase = .ident)
    (unit : UnitNo) (free : Trio Nat) (last : SeqNo) :
    arriveIdent p unit free last s = takeIdent p a unit free last s := by
  unfold arriveIdent
  simp only [current, phase]

theorem arriveIdent_ready (current : (s.port p).attempt = some a) (phase : a.phase = .ready)
    (unit : UnitNo) (free : Trio Nat) (last : SeqNo) : arriveIdent p unit free last s =
      withPort p { s.port p with owedTrains := (s.port p).owedTrains ++ [.ident] } s := by
  unfold arriveIdent
  simp only [current, phase, train_current current]
  rfl

theorem arriveIdent_discarded (early : ∀ a, (s.port p).attempt = some a → a.phase = .speed)
    (unit : UnitNo) (free : Trio Nat) (last : SeqNo) : arriveIdent p unit free last s = s := by
  unfold arriveIdent
  cases current : (s.port p).attempt with
  | none => rfl
  | some a => simp only [early a current]

theorem takeIdent_new (phase : a.phase = .ident) (mode : a.mode = .new) (unit : UnitNo)
    (free : Trio Nat) (last : SeqNo) : takeIdent p a unit free last s =
      withPort p (identExchanged a { s.port p with
        partnerUnit := some unit, acked := some 4095, credit := free }) s := by
  unfold takeIdent
  simp only [mode]
  rw [← advance_eq_identExchanged phase, ← mode]
  rfl

/-- In RESUME the number of the IDENT decides: it acknowledges or fails the attempt. -/
theorem takeIdent_resume (phase : a.phase = .ident) (mode : a.mode = .resume) {held : SeqNo}
    (acked : (s.port p).acked = some held) (unit : UnitNo) (free : Trio Nat) (last : SeqNo) :
    (InWindow (s.port p) held last → takeIdent p a unit free last s =
      withPort p (identExchanged a
        (acknowledged held last free { s.port p with partnerUnit := some unit })) s) ∧
    (¬InWindow (s.port p) held last → takeIdent p a unit free last s =
      failAttempt p a (withPort p { s.port p with partnerUnit := some unit } s)) := by
  have window : LinkPort.inWindow { s.port p with partnerUnit := some unit } last = true ↔
      InWindow (s.port p) held last :=
    inWindow_iff (lp := { s.port p with partnerUnit := some unit }) acked last
  rw [← window, ← advance_eq_identExchanged phase, ← applyAck_eq]
  unfold takeIdent
  simp only [mode, acked]
  exact ⟨fun inside => if_pos inside, fun outside => if_neg outside⟩

/-! ### What training discards (R171) -/

theorem readyAttempt_eq_none (notReady : ∀ a, (s.port p).attempt = some a → a.phase ≠ .ready) :
    readyAttempt p s = none := by
  refine Option.filter_eq_none_iff.2 fun a current ready => ?_
  exact notReady a current (of_decide_eq_true ready)

end Training

/-- Outside READY, what is not a TRAIN of the attempt's phases changes nothing. -/
theorem discarded_in_training {p : Port} {s : State} {wire : List Byte}
    (notUp : (s.port p).state ≠ .up)
    (notReady : ∀ a, (s.port p).attempt = some a → a.phase ≠ .ready) :
    (readWire wire = .ready → exec (.readyReceived p wire) s = .next s) ∧
    (∀ pkt seq, readWire wire = .traffic pkt seq →
      exec (.receivePacket p wire) s = .next s ∧ exec (.readyReceived p wire) s = .next s) ∧
    ∀ seq credit, readWire wire = .ack seq credit →
      exec (.ackReceived p wire) s = .next s ∧ exec (.readyReceived p wire) s = .next s := by
  have none := readyAttempt_eq_none notReady
  refine ⟨fun read => ?_, fun pkt seq read => ⟨?_, ?_⟩, fun seq credit read => ⟨?_, ?_⟩⟩
  · rw [exec_readyReceived p s read]
    simp only [arriveReady, if_neg notUp, none]
  · rw [exec_receivePacket_traffic p s read]
    simp only [arriveTraffic, if_neg notUp, none]
  · simp [exec, execReadyReceived, read, none]
  · rw [exec_ackReceived p s read]
    simp only [arriveAck, if_neg notUp, none]
  · simp [exec, execReadyReceived, read, none]

/-- Settles O6: the SPEED and the IDENT by the phase they arrive in, and the rest by what the port takes. -/
theorem speedAndIdentAreTaken : Obligations.SpeedAndIdentAreTaken := by
  refine ⟨fun p s wire mode lanes rate read notUp => ?speed, fun p s wire unit free last read => ?ident,
    fun p s wire up read => ?ready, fun p s wire notUp => ?discarded⟩
  case speed =>
    rw [exec_speedReceived p s read]
    refine ⟨fun none => by rw [arriveSpeed_noAttempt notUp none], fun a current => ?_⟩
    rw [arriveSpeed_attempt notUp current]
    refine ⟨fun o offer same => ⟨fun phase => ?_, fun phase partner => ?_⟩, fun wrong => ?_⟩
    · exact ⟨a.offer.agree o, agree_lanes _ _, agree_rate _ _,
        congrArg _ (trainSpeed_taken offer same phase)⟩
    · rw [trainSpeed_again offer same current phase partner]
    · exact ⟨_, congrArg _ (trainSpeed_fails wrong), failAttempt_failed p a s⟩
  case ident =>
    rw [exec_identReceived p s read]
    refine ⟨fun early => by rw [arriveIdent_discarded early], fun a current => ⟨fun phase => ?_,
      fun phase => ⟨fun mode => ?_, fun held mode acked => ?_⟩⟩⟩
    · rw [arriveIdent_ready current phase]
    · rw [arriveIdent_ident current phase, takeIdent_new phase mode]
    · obtain ⟨inside, outside⟩ := takeIdent_resume phase mode acked unit free last
      rw [arriveIdent_ident current phase]
      exact ⟨fun window => by rw [inside window], fun window =>
        ⟨_, congrArg _ (outside window), mode ▸ failAttempt_failed p a _⟩⟩
  case ready =>
    rw [exec_readyReceived p s read]
    exact congrArg _ (if_pos up)
  case discarded =>
    refine ⟨fun read => ?_, fun seq read => ?_, discarded_in_training notUp⟩
    · simp only [exec, execReceivePacket, read, if_neg notUp]
    · rw [exec_replayReqReceived p s read]
      exact congrArg _ (if_neg notUp)

end Sys2Proof
end

section
/-! PROOFS. Which bytes are a packet and what they are read as, and that every packet the part sends reads back
(R140, R155, R184, R185). -/

namespace Sys2Proof

open Machine

/-! ### Byte order and check code -/

theorem field_succ (bytes : List Byte) (o n : Nat) :
    field bytes o (n + 1) = (byteAt bytes o).toNat + 256 * field bytes (o + 1) n := by
  by_cases inside : o < bytes.length
  · have byte : byteAt bytes o = bytes[o] := by simp [byteAt, List.getD, inside]
    rw [field, List.drop_eq_getElem_cons inside, List.take_succ_cons, ofLE, byte, field]
  · have past : bytes.length ≤ o := Nat.not_lt.1 inside
    rw [byteAt_past past, field, field, List.drop_eq_nil_of_le past,
      List.drop_eq_nil_of_le (Nat.le_succ_of_le past), List.take_nil, List.take_nil]
    rfl

theorem sealed_eq (body : List Byte) :
    sealed body = body ++ (toLE 4 (Config.checkCode body).toNat ++ []) := by
  rw [sealed, List.append_nil]

theorem field_sealed (body : List Byte) :
    field (sealed body) body.length 4 = (Config.checkCode body).toNat := by
  rw [sealed_eq, field_append_right (Nat.le_refl _), Nat.sub_self, field_word _ (by decide)]

/-! ### Which bytes are a packet -/

/-- The kind that a byte names is spelled by that byte, and `other` by none that Tables 9-1 and 11-2 list. -/
theorem packetKind_spec (code : Byte) : kindByte (packetKind code) = code ∧
    ∀ c, packetKind code = .other c → c = code ∧ c ∉ ([1, 2, 3, 4, 5] : List Byte) := by
  unfold packetKind
  split_ifs <;> simp_all [kindByte]

/-- A kind outside the link-control kinds is the one that its byte names. -/
theorem packetKind_kindByte {k : PacketKind}
    (other : ∀ c, k = .other c → c ∉ ([1, 2, 3, 4, 5, 0x10, 0x11, 0x12] : List Byte)) :
    packetKind (kindByte k) = k ∧ kindByte k ≠ 0x10 ∧ kindByte k ≠ 0x11 ∧ kindByte k ≠ 0x12 := by
  cases k with
  | other c =>
    have unlisted := other c rfl
    simp only [List.mem_cons, List.not_mem_nil, or_false, not_or] at unlisted
    simp only [kindByte, packetKind]
    simp_all
  | _ => rw [kindByte_eq]; exact packetKind_code _ nofun

/-- Bytes that fill the frame of their kind are read field by field. -/
theorem readsAs_readBody {body : List Byte} (fills : frameLength body = some body.length) :
    ReadsAs body (readBody body) := by
  unfold frameLength at fills
  unfold readBody
  dsimp only at fills ⊢
  split_ifs at fills ⊢ with train speed ident ready ack request
  · exact ⟨train, speed, (Option.some.inj fills).symm, rfl, rfl, rfl⟩
  · exact ⟨train, ident, (Option.some.inj fills).symm, BitVec.toNat_ofNat .., BitVec.toNat_ofNat .., rfl⟩
  · exact ⟨train, ready, (Option.some.inj fills).symm⟩
  · exact ⟨ack, (Option.some.inj fills).symm, BitVec.toNat_ofNat .., rfl⟩
  · exact ⟨request, (Option.some.inj fills).symm, BitVec.toNat_ofNat ..⟩
  · obtain ⟨named, other⟩ := packetKind_spec (byteAt body 0)
    have length : (BitVec.ofNat 16 (field body 4 2)).toNat = field body 4 2 :=
      BitVec.toNat_ofNat .. |>.trans (Nat.mod_eq_of_lt (field_lt body 4 2))
    have address : (BitVec.ofNat 48 (field body 10 6)).toNat = field body 10 6 :=
      BitVec.toNat_ofNat .. |>.trans (Nat.mod_eq_of_lt (field_lt body 10 6))
    simp only [ReadsAs, readPacket, hasAddress_eq, hasPayload_eq]
    refine ⟨named.symm, fun c is => ?_, (Option.some.inj fills).symm, BitVec.toNat_ofNat ..,
      BitVec.toNat_ofNat .., BitVec.toNat_ofNat .., length, rfl, BitVec.toNat_ofNat .., ?_, rfl⟩
    · obtain ⟨rfl, unlisted⟩ := other c is
      simp_all
    · split_ifs
      · exact address
      · rfl

section ReadTraffic

variable {body : List Byte} {pkt : Packet} {seq : SeqNo} (reads : ReadsAs body (.traffic pkt seq))

include reads

theorem kind_of_readsAs : packetKind (byteAt body 0) = pkt.kind ∧
    byteAt body 0 ≠ 0x10 ∧ byteAt body 0 ≠ 0x11 ∧ byteAt body 0 ≠ 0x12 := by
  obtain ⟨named, other, -⟩ := reads
  rw [named]
  exact packetKind_kindByte other

theorem packet_of_readsAs : readPacket body = pkt ∧ BitVec.ofNat 12 (field body 8 2) = seq := by
  obtain ⟨kind, -⟩ := kind_of_readsAs reads
  simp only [ReadsAs, hasAddress_eq, hasPayload_eq] at reads
  obtain ⟨-, -, -, source, dest, tag, length, status, number, address, payload⟩ := reads
  have length' : pkt.length = BitVec.ofNat 16 (field body 4 2) := by
    rw [← length, BitVec.ofNat_toNat, BitVec.setWidth_eq]
  have address' : pkt.address =
      if pkt.kind.addressed then BitVec.ofNat 48 (field body 10 6) else 0 := by
    rw [← BitVec.toNat_inj, address]
    split_ifs
    · exact (Nat.mod_eq_of_lt (field_lt body 10 6)).symm
    · rfl
  refine ⟨?_, BitVec.eq_of_toNat_eq number.symm⟩
  obtain ⟨kind', source', dest', tag', _, _, _, _⟩ := pkt
  simp only at kind source dest tag length' status address' payload
  rw [readPacket, kind, status, length', address', payload,
    show source' = BitVec.ofNat 5 (field body 1 1) from BitVec.eq_of_toNat_eq source,
    show dest' = BitVec.ofNat 5 (field body 2 1) from BitVec.eq_of_toNat_eq dest,
    show tag' = BitVec.ofNat 7 (field body 3 1) from BitVec.eq_of_toNat_eq tag]
  rfl

end ReadTraffic

/-- What bytes are read as tells which frame they fill. -/
theorem readsAs_spec {body : List Byte} {f : Frame} (reads : ReadsAs body f) :
    frameLength body = some body.length ∧ readBody body = f := by
  cases f with
  | speed mode lanes rate =>
    obtain ⟨kind, phase, length, rfl, rfl, rfl⟩ := reads
    simp [frameLength, readBody, kind, phase, length]
  | ident unit free last =>
    obtain ⟨kind, phase, length, unit', last', rfl⟩ := reads
    simp [frameLength, readBody, kind, phase, length, ← BitVec.toNat_inj, unit', last']
  | ready =>
    obtain ⟨kind, phase, length⟩ := reads
    simp [frameLength, readBody, kind, phase, length]
  | ack seq credit =>
    obtain ⟨kind, length, seq', rfl⟩ := reads
    simp [frameLength, readBody, kind, length, ← BitVec.toNat_inj, seq']
  | replayReq seq =>
    obtain ⟨kind, length, seq'⟩ := reads
    simp [frameLength, readBody, kind, length, ← BitVec.toNat_inj, seq']
  | traffic pkt seq =>
    obtain ⟨kind, train, ack, request⟩ := kind_of_readsAs reads
    obtain ⟨same, number⟩ := packet_of_readsAs reads
    obtain ⟨-, -, frame, -⟩ := reads
    rw [hasAddress_eq, hasPayload_eq] at frame
    simp only [frameLength, readBody, if_neg train, if_neg ack, if_neg request, kind, same, number,
      PacketKind.frameLength, frame, and_self]
  | damaged => exact reads.elim
  | discarded => exact reads.elim

theorem readWire_of_readsAs {body : List Byte} {f : Frame} (reads : ReadsAs body f) :
    readWire (sealed body) = f :=
  have ⟨fills, read⟩ := readsAs_spec reads
  (readWire_sealed body fills).trans read

theorem isLinkControl_iff (code : Byte) :
    isLinkControl code = true ↔ code = 0x10 ∨ code = 0x11 ∨ code = 0x12 := by
  simp [isLinkControl, or_assoc]

/-- Bytes that are no packet under a good check code. -/
theorem readWire_of_not_sealed {bytes : List Byte}
    (no : ∀ body f, bytes = sealed body → ¬ReadsAs body f) : readWire bytes =
      if byteAt bytes 0 = 0x10 ∨ byteAt bytes 0 = 0x11 ∨ byteAt bytes 0 = 0x12 then .discarded
      else .damaged := by
  unfold readWire
  dsimp only
  rw [if_neg]
  · simp only [isLinkControl_iff]
  · rintro ⟨fills, check⟩
    refine no _ _ ?_ (readsAs_readBody fills)
    rw [sealed, ← check, List.take_append_drop]

/-! ### Packets of the three channels -/

section Traffic

variable (pkt : Packet) (seq : SeqNo)

/-- The bytes of a packet show its fields (Table 11-1). -/
theorem showsPacket : ShowsPacket (packetBytes pkt seq) pkt seq := by
  have kind : kindByte pkt.kind = pkt.kind.code := congrFun kindByte_eq _
  unfold ShowsPacket packetBytes
  rw [hasAddress_eq, kind]
  refine ⟨?_, ?_, ?_, ?_, ?_, ?_, ?_, ?_, ?_⟩
  case refine_9 =>
    split_ifs with addressed
    · exact ⟨by simp, List.drop_left' (by simp)⟩
    · exact List.drop_left' (by simp)
  all_goals simp [field_one]

theorem packetBytes_length : (packetBytes pkt seq).length =
    (if hasAddress pkt.kind then 16 else 10) + pkt.payload.length := by
  unfold packetBytes
  rw [hasAddress_eq]
  split_ifs <;> simp +arith

theorem packetBytes_drop : (packetBytes pkt seq).drop (if hasAddress pkt.kind then 16 else 10) =
    pkt.payload := by
  obtain ⟨-, -, -, -, -, -, -, -, rest⟩ := showsPacket pkt seq
  split_ifs at rest ⊢ with addressed
  · exact rest.2
  · exact rest

variable {pkt} (allowed : PacketAllowed pkt)

include allowed

theorem PacketAllowed.payload_length : pkt.payload.length =
    (if hasPayload pkt.kind then pkt.length.toNat else 0) ∧ pkt.payload.length ≤ 256 := by
  obtain ⟨other, carried, empty, -, -⟩ := allowed
  cases kind : pkt.kind with
  | write | writeAck | reply =>
    obtain ⟨length, bound⟩ := carried (by simp [kind])
    exact ⟨length, length ▸ bound⟩
  | read | fence =>
    rw [empty (by simp [kind])]
    exact ⟨rfl, Nat.zero_le _⟩
  | other c => exact absurd kind (other c)

theorem PacketAllowed.address_eq_zero (unaddressed : ¬hasAddress pkt.kind = true) : pkt.address = 0 := by
  obtain ⟨other, -, -, -, none⟩ := allowed
  refine none ?_
  cases kind : pkt.kind <;> simp_all [hasAddress]

theorem readsAs_packetBytes : ReadsAs (packetBytes pkt seq) (.traffic pkt seq) := by
  obtain ⟨named, source, dest, tag, length, status, -, number, rest⟩ := showsPacket pkt seq
  obtain ⟨carried, bound⟩ := allowed.payload_length
  have unaddressed := allowed.address_eq_zero
  obtain ⟨other, -, -, noStatus, -⟩ := allowed
  refine ⟨named, fun c is => absurd is (other c), ?_, ?_, ?_, ?_, length.symm, ?_, ?_, ?_, ?_⟩
  · rw [packetBytes_length, carried, length]
  · rw [source]; exact (Nat.mod_eq_of_lt pkt.source.isLt).symm
  · rw [dest]; exact (Nat.mod_eq_of_lt pkt.dest.isLt).symm
  · rw [tag]; exact (Nat.mod_eq_of_lt pkt.tag.isLt).symm
  · split_ifs with reply
    · exact status.symm
    · exact noStatus reply
  · rw [number]; exact (Nat.mod_eq_of_lt seq.isLt).symm
  · split_ifs at rest ⊢ with addressed
    · exact rest.1.symm
    · rw [unaddressed addressed]; rfl
  · rw [packetBytes_drop]
    split_ifs at carried ⊢
    · exact (List.take_of_length_le bound).symm
    · exact List.eq_nil_of_length_eq_zero carried

end Traffic

/-! ### Link control (Table 11-2) -/

theorem offers_offerBytes (o : Offer) :
    Offers o (BitVec.ofNat 8 (laneCount o.lanes)) (BitVec.ofNat 8 (gigabits o.rate)) :=
  ⟨by cases o.lanes <;> rfl, by cases o.rate <;> rfl⟩

theorem readsAs_speedBytes (mode : Mode) (o : Offer) : ReadsAs (speedBytes mode o)
    (.speed (modeByte mode) (BitVec.ofNat 8 (laneCount o.lanes)) (BitVec.ofNat 8 (gigabits o.rate))) := by
  rw [modeByte_eq, laneCount_eq, gigabits_eq]
  exact ⟨rfl, rfl, rfl, rfl, rfl, rfl⟩

theorem readsAs_readyBytes : ReadsAs readyBytes .ready := ⟨rfl, rfl, rfl⟩

/-- A sequence number reads back wherever it stands in the bytes. -/
theorem seqNo_field (seq : SeqNo) (rest : List Byte) :
    seq.toNat = field (toLE 2 seq.toNat ++ rest) 0 2 % 4096 := by
  rw [field_word seq (by decide)]
  exact (Nat.mod_eq_of_lt seq.isLt).symm

theorem readsAs_replayReqBytes (seq : SeqNo) : ReadsAs (replayReqBytes seq) (.replayReq seq) := by
  refine ⟨rfl, rfl, ?_⟩
  simpa [replayReqBytes] using seqNo_field seq []

section Slots

variable {free : Trio Nat} (p : free.p < 256) (n : free.n < 256) (c : free.c < 256) (last : SeqNo)

include p n c

theorem readsAs_identBytes (unit : UnitNo) :
    ReadsAs (identBytes unit free last) (.ident unit free last) := by
  refine ⟨rfl, rfl, rfl, ?_, ?_, ?_⟩
  · simpa [identBytes, field_one] using (Nat.mod_eq_of_lt unit.isLt).symm
  · simpa [identBytes] using seqNo_field last []
  · simp [identBytes, field_one, Nat.mod_eq_of_lt p, Nat.mod_eq_of_lt n, Nat.mod_eq_of_lt c]

theorem readsAs_ackBytes : ReadsAs (ackBytes last free) (.ack last free) := by
  refine ⟨rfl, rfl, ?_, ?_⟩
  · simpa [ackBytes] using seqNo_field last
      [BitVec.ofNat 8 free.p, BitVec.ofNat 8 free.n, BitVec.ofNat 8 free.c]
  · simp [ackBytes, field_one, Nat.mod_eq_of_lt p, Nat.mod_eq_of_lt n, Nat.mod_eq_of_lt c]

end Slots

/-- Settles O53: the bytes of each frame, what they are read as, and those that fill no frame. -/
theorem sentPacketsReadBack : Obligations.SentPacketsReadBack := by
  refine ⟨fun bytes o n v => ?order, fun body => ?check, fun body f => readWire_of_readsAs,
    fun bytes => readWire_of_not_sealed, fun pkt seq allowed => ?traffic, fun mode o => ?speed,
    fun unit free last p n c => ?slots, readWire_of_readsAs readsAs_readyBytes,
    fun seq => readWire_of_readsAs (readsAs_replayReqBytes seq)⟩
  case order =>
    refine ⟨rfl, field_succ bytes o n, toLE_length n v, ?_⟩
    rw [← List.append_nil (toLE n v)]
    exact field_toLE v
  case check => exact ⟨by simp [sealed], List.prefix_append _ _, field_sealed body⟩
  case traffic => exact ⟨showsPacket pkt seq, readWire_of_readsAs (readsAs_packetBytes seq allowed)⟩
  case speed => exact ⟨_, _, offers_offerBytes o, readWire_of_readsAs (readsAs_speedBytes mode o)⟩
  case slots =>
    exact ⟨readWire_of_readsAs (readsAs_identBytes p n c last unit),
      readWire_of_readsAs (readsAs_ackBytes p n c last)⟩

end Sys2Proof
end

section
/-! PROOFS. The TRAINs that a link port sends, how it enters RETRAINING and UP, and how an attempt expires
(R171 to R175, R178 to R180). -/

namespace Sys2Proof

open Machine

/-! ### The TRAINs that are sent (R171 to R174, R185) -/

section Sending

variable (lp : LinkPort) (a : Attempt)

theorem sendPhase_speed : lp.sendPhase a .speed = { lp with
    wire := some (sealed [0x10, 1, modeByte a.mode,
      BitVec.ofNat 8 (laneCount a.offer.lanes), BitVec.ofNat 8 (gigabits a.offer.rate)]) } := by
  rw [modeByte_eq, laneCount_eq, gigabits_eq]
  rfl

theorem sendPhase_ready : lp.sendPhase a .ready = { lp with wire := some (sealed [0x10, 3]) } := rfl

/-- Once the partner's IDENT is taken, the port's own ends the IDENT phase. -/
theorem advance_identSent : lp.advance { a with identSent := true } = { lp with
    owedTrains := if a.phase = .ident ∧ a.identTaken = true then lp.owedTrains ++ [.ready]
      else lp.owedTrains
    attempt := some { a with
      identSent := true
      phase := if a.phase = .ident ∧ a.identTaken = true then .ready else a.phase } } := by
  simp only [LinkPort.advance, true_and, LinkPort.train]
  split_ifs
  · rfl
  · rw [List.append_nil]

theorem sendPhase_ident : lp.sendPhase a .ident = { lp with
    owedTrains := if a.phase = .ident ∧ a.identTaken = true then lp.owedTrains ++ [.ready]
      else lp.owedTrains
    attempt := some { a with
      identSent := true
      phase := if a.phase = .ident ∧ a.identTaken = true then .ready else a.phase }
    ackOwed := a.identSent && lp.ackOwed
    wire := some (sealed ([0x10, 2, a.unit.setWidth 8,
        BitVec.ofNat 8 (16 - lp.ingress.p.length), BitVec.ofNat 8 (16 - lp.ingress.n.length),
        BitVec.ofNat 8 (32 - lp.ingress.c.length)] ++ toLE 2 (lp.rxNext - 1).toNat)) } :=
  advance_identSent _ a

variable {lp a}

/-- During an attempt the TRAIN that is due goes, or with none due that of the current phase. -/
theorem sendTrain_attempt {ph : Phase} {rest : List Phase} (current : lp.attempt = some a)
    (goes : lp.owedTrains = ph :: rest ∨ lp.owedTrains = [] ∧ rest = [] ∧ a.phase = ph) :
    lp.sendTrain = LinkPort.sendPhase { lp with owedTrains := rest } a ph := by
  unfold LinkPort.sendTrain
  obtain due | ⟨none, rfl, rfl⟩ := goes
  · simp only [current, due]
  · have same : { lp with owedTrains := [] } = lp := by rw [← none]
    rw [same]
    simp only [current, none]

/-- While UP only a READY is sent. -/
theorem sendTrain_noAttempt {rest : List Phase} (none : lp.attempt = none)
    (due : lp.owedTrains = .ready :: rest) :
    lp.sendTrain = { lp with owedTrains := rest, wire := some (sealed [0x10, 3]) } := by
  unfold LinkPort.sendTrain
  simp only [none, due]
  rfl

end Sending

/-- Settles O5: the TRAIN that goes, and what sending it makes of the port by its phase. -/
theorem trainsAreSent : Obligations.TrainsAreSent := by
  intro p s rest lp
  have sends {lp' : LinkPort} (sent : lp.sendTrain = lp') :
      exec (.sendTrain p) s = .next (withPort p lp' s) :=
    sent ▸ rfl
  refine ⟨fun a current => ⟨fun goes => ?speed, fun goes => ?ready, fun goes => ?ident⟩,
    fun none due => sends (sendTrain_noAttempt none due)⟩
  all_goals refine sends ((sendTrain_attempt current goes).trans ?_)
  case speed => exact sendPhase_speed _ a
  case ready => exact sendPhase_ready _ a
  case ident => exact sendPhase_ident _ a

/-! ### RETRAINING begins (R178 to R180) -/

theorem enterRetraining_eq (p : Port) (s : State) : enterRetraining p s = retrainingBegun p s := rfl

/-- A REPLAY_REQ after four rounds. -/
theorem takeReplayReq_retrains {p : Port} {s : State} {seq : SeqNo} (sent : ¬NotSent (s.port p) seq)
    (some : packetsAfter (s.port p) seq ≠ []) (last : (s.port p).rounds = 4) :
    takeReplayReq p seq s = enterRetraining p s :=
  (if_neg (mt (notSent_iff _ _).1 sent)).trans ((if_neg some).trans (if_pos last))

/-- Settles O7: the expiry by whether it is due, and the SPEED and the REPLAY_REQ taken while UP. -/
theorem retrainingBegins : Obligations.RetrainingBegins := by
  have due (s : State) (p : Port) := dueAck_iff (reached_iff s.timebase) p
  refine ⟨fun p s early => ?early, fun p s up => ⟨fun deadline runs past held => ?expiry,
    fun wire mode lanes rate read => ?speed, fun wire seq read sent some last => ?request⟩⟩
  case early =>
    refine congrArg _ (if_neg fun isDue => ?_)
    obtain ⟨up, deadline, runs, past⟩ := (due s p).1 isDue
    exact early up deadline runs past
  all_goals rw [← enterRetraining_eq]
  case expiry => exact congrArg _ ((if_pos ((due s p).2 ⟨up, deadline, runs, past⟩)).trans (if_neg held))
  case speed =>
    rw [exec_speedReceived p s read]
    exact congrArg _ (if_pos up)
  case request =>
    rw [exec_replayReqReceived p s read]
    exact congrArg _ ((if_pos up).trans (takeReplayReq_retrains sent some last))

/-! ### The entry to UP (R174, R178) -/

theorem enterUp_eq (p : Port) (a : Attempt) (s : State) : enterUp p a s = upEntered p a s := by
  have deadline : (if a.mode = .resume then ackDeadlineFor s.timebase (s.port p).replayStore else none) =
      if a.mode = .resume ∧ (s.port p).replayStore ≠ [] then some (s.timebase + 1000) else none := by
    rw [ite_and, ite_not]
    rfl
  unfold enterUp LinkPort.succeed
  dsimp only
  rw [deadline]
  rfl

theorem upEntered_up (p : Port) (a : Attempt) (s : State) : ((upEntered p a s).port p).state = .up :=
  enterUp_eq p a s ▸ enterUp_up p a

section Ready

variable {p : Port} {s : State} {a : Attempt}

theorem readyAttempt_eq_some (current : (s.port p).attempt = some a) (phase : a.phase = .ready) :
    readyAttempt p s = some a :=
  Option.filter_eq_some_iff.2 ⟨current, decide_eq_true phase⟩

/-- A packet of the three channels that brings the port UP is taken as one that arrives while UP. -/
theorem arriveTraffic_ready (notUp : (s.port p).state ≠ .up) (ready : readyAttempt p s = some a)
    (pkt : Packet) (seq : SeqNo) :
    arriveTraffic p pkt seq s = arriveTraffic p pkt seq (upEntered p a s) := by
  unfold arriveTraffic
  rw [if_neg notUp, if_pos (upEntered_up p a s), ready, ← enterUp_eq]

theorem arriveAck_ready (notUp : (s.port p).state ≠ .up) (ready : readyAttempt p s = some a)
    (seq : SeqNo) (credit : Trio Nat) :
    arriveAck p seq credit s = arriveAck p seq credit (upEntered p a s) := by
  unfold arriveAck
  rw [if_neg notUp, if_pos (upEntered_up p a s), ready, ← enterUp_eq]

end Ready

/-- Settles O8: what arrives in the READY phase brings the port UP, and traffic and ACKs are then taken there. -/
theorem portEntersUp : Obligations.PortEntersUp := by
  intro p s wire a notUp current phase
  have ready := readyAttempt_eq_some current phase
  refine ⟨fun read => ?ready, fun pkt seq read => ?traffic, fun seq credit read => ?ack⟩
  case ready =>
    rw [exec_readyReceived p s read, ← enterUp_eq]
    simp only [arriveReady, if_neg notUp, ready]
  case traffic =>
    rw [exec_receivePacket_traffic p _ read, ← arriveTraffic_ready notUp ready]
    simp [exec, execReadyReceived, read, ready]
  case ack =>
    rw [exec_ackReceived p _ read, ← arriveAck_ready notUp ready]
    simp [exec, execReadyReceived, read, ready]

/-! ### The expiry of an attempt (R175) -/

section AttemptExpiry

variable {p : Port} {s : State}

theorem attemptDeadlineExpiry_due {a : Attempt} (due : dueAttempt reached p s = some a) :
    exec (.attemptDeadlineExpiry p) s = .next (failAttempt p a s) := by
  simp only [exec, execAttemptDeadlineExpiry, due]

theorem attemptDeadlineExpiry_early (none : dueAttempt reached p s = none) :
    exec (.attemptDeadlineExpiry p) s = .next s := by
  simp only [exec, execAttemptDeadlineExpiry, none]

end AttemptExpiry

/-- Settles O9: an attempt that is due fails, and before its deadline none is due. -/
theorem attemptExpiresAndRepeats : Obligations.AttemptExpiresAndRepeats := by
  have due (s : State) (p : Port) := dueAttempt_iff (reached_iff s.timebase) p
  refine ⟨fun p s early => ?early, fun p s a current past => ?expiry⟩
  case early =>
    refine attemptDeadlineExpiry_early (Option.eq_none_iff_forall_ne_some.2 fun a isDue => ?_)
    obtain ⟨current, past⟩ := (due s p a).1 isDue
    exact early a current past
  case expiry =>
    exact ⟨_, attemptDeadlineExpiry_due ((due s p a).2 ⟨current, past⟩), failAttempt_failed p a s⟩

end Sys2Proof
end

section
/-! PROOFS. What a link port makes of a packet of the three channels that it receives while UP (R177). -/

namespace Sys2Proof

open Machine

/-! ### The age of a sequence number -/

theorem isDuplicate_iff (lp : LinkPort) (seq : SeqNo) : lp.isDuplicate seq = true ↔
    1 ≤ (lp.rxNext - seq).toNat ∧ (lp.rxNext - seq).toNat ≤ 64 := by
  unfold LinkPort.isDuplicate
  rw [Bool.and_eq_true, decide_eq_true_iff, decide_eq_true_iff]

/-- The expected number is the one of age 0. -/
theorem eq_rxNext_iff (lp : LinkPort) (seq : SeqNo) :
    seq = lp.rxNext ↔ (lp.rxNext - seq).toNat = 0 := by
  rw [eq_comm, ← sub_eq_zero]
  exact BitVec.toNat_inj.symm

/-! ### The tests of a received packet -/

section Reception

variable {lp : LinkPort} {pkt : Packet} {seq : SeqNo}

theorem receive_duplicate (after : 1 ≤ (lp.rxNext - seq).toNat) (recent : (lp.rxNext - seq).toNat ≤ 64) :
    lp.receive pkt seq = { lp with ackOwed := true } :=
  if_pos ((isDuplicate_iff lp seq).2 ⟨after, recent⟩)

/-- A packet that is neither expected nor a duplicate asks for a replay, unless one is awaited. -/
theorem receive_outOfSequence (far : 64 < (lp.rxNext - seq).toNat) :
    lp.receive pkt seq = if lp.rxMode = .inOrder then lp.requestReplay else lp := by
  have notDuplicate : ¬lp.isDuplicate seq = true := by rw [isDuplicate_iff]; omega
  have notExpected : seq ≠ lp.rxNext := by rw [Ne, eq_rxNext_iff]; omega
  exact (if_neg notDuplicate).trans (if_pos notExpected)

/-- The expected packet is accepted if its channel has a free slot. -/
theorem receive_expected (expected : (lp.rxNext - seq).toNat = 0) : lp.receive pkt seq =
    if slotsOf (channelOf pkt.kind) ≤ (lp.ingress.get (channelOf pkt.kind)).length then lp.requestReplay
    else lp.accept pkt := by
  have notDuplicate : ¬lp.isDuplicate seq = true := by rw [isDuplicate_iff]; omega
  have same : ¬seq ≠ lp.rxNext := not_not.2 ((eq_rxNext_iff lp seq).2 expected)
  simp only [slotsOf_eq, channelOf_eq, ← Nat.sub_eq_zero_iff_le]
  exact (if_neg notDuplicate).trans (if_neg same)

end Reception

theorem withPort_port (p : Port) (s : State) : withPort p (s.port p) s = s := by
  unfold withPort State.port
  rw [Duo.set_get]

/-- Settles O11: the tests of a packet's check code, its age and its channel's free slots, in their order. -/
theorem packetIsReceived : Obligations.PacketIsReceived := by
  intro p s wire up lp requested
  refine ⟨fun read => ?damaged, fun pkt seq read => ?traffic⟩
  case damaged =>
    simp only [exec, execReceivePacket, read, if_pos up]
    rfl
  case traffic =>
    have receives {lp' : LinkPort} (received : lp.receive pkt seq = lp') :
        exec (.receivePacket p wire) s = .next (withPort p lp' s) := by
      rw [exec_receivePacket_traffic p s read, arriveTraffic, if_pos up, takeTraffic, received]
      rfl
    intro age ch
    refine ⟨fun after recent => ?duplicate, fun far inOrder => ?first, fun far awaiting => ?again,
      fun expected full => ?overrun, fun expected room => ?accepted⟩
    case duplicate => exact receives (receive_duplicate after recent)
    case first => exact receives ((receive_outOfSequence far).trans (if_pos inOrder))
    case again =>
      have other : lp.rxMode ≠ .inOrder := by rw [awaiting]; nofun
      have unchanged := receives ((receive_outOfSequence far).trans (if_neg other))
      rwa [withPort_port] at unchanged
    case overrun => exact receives ((receive_expected expected).trans (if_pos full))
    case accepted =>
      have accepts := receives ((receive_expected expected).trans (if_neg (Nat.not_le.2 room)))
      simpa only [LinkPort.accept, ← channelOf_eq] using accepts

end Sys2Proof
end

section
/-! PROOFS. The image of a steering entry reads back as the entry (R184, R186, R187; Tables 11-5 and
11-7). -/

namespace Sys2Proof

open Machine

/-! ### The entry that shown bytes encode -/

/-- An optional field is read back by its presence bit; what is shown for an absent one is not read (R186). -/
theorem optional_of_shown {α : Type} {present : Bool} {o : Option α} (shown : present = o.isSome)
    (absent : α) :
    (if present then some (o.getD absent) else none) = o := by
  subst shown
  cases o <;> rfl

/-- Bytes that show an entry encode it, where its size fits in 8 bytes and its target unit and translated
base, which share a presence bit, are present together. -/
theorem imageEntry_of_showsEntry {img : List Byte} {e : Entry} (shows : ShowsEntry img e)
    (fits : e.size < 2 ^ 64) (together : e.target.isSome = e.translated.isSome) :
    imageEntry img e.arrival e.kinds e.action = e := by
  obtain ⟨label, -, -, sources, base, -, steered, timed, limited, notifies, notify, pinned, -, size, target,
    -, translated, timeout, limit⟩ := shows
  simp only [imageEntry, label, sources, base, size, Nat.mod_eq_of_lt fits, target, translated, timeout,
    limit, notify, pinned, BitVec.ofNat_toNat, BitVec.setWidth_eq, optional_of_shown steered,
    optional_of_shown (steered.trans together), optional_of_shown timed, optional_of_shown limited,
    optional_of_shown notifies]

/-! ### The entry of an image -/

namespace ValidEntry

variable {units : Duo UnitNo} {e : Entry} (valid : ValidEntry units e)

include valid

/-- A window of R3 lies in the 48-bit address space, so its size fits in the 8 bytes of an image. -/
theorem size_lt : e.size < 2 ^ 64 := by
  obtain ⟨-, -, ⟨-, -, -, inside⟩, -⟩ := valid
  omega

theorem target_isSome_eq : e.target.isSome = e.translated.isSome := by
  obtain ⟨-, -, -, target, translated, -⟩ := valid
  exact Bool.eq_iff_iff.2 (target.trans translated.symm)

end ValidEntry

theorem showsEntry_entryImage (e : Entry) : ShowsEntry (entryImage e) e := by
  simpa using showsEntry e []

theorem take_padTo_append {part : List Byte} {k : Nat} (n : Nat) (more : List Byte)
    (length : part.length = k) : (padTo n (part ++ more)).take k = part := by
  rw [padTo, List.append_assoc, List.take_left' length]

/-- A readback record of a staging entry opens with its image (Table 11-7). -/
theorem stagingRecord_take (e : Entry) : (stagingRecord e).take 40 = entryImage e := by
  simpa [stagingRecord] using take_padTo_append 64 [] (entryImage_length e)

theorem activeRecord_take (a : ActiveEntry) : (activeRecord a).take 40 = entryImage a.entry := by
  rw [activeRecord, List.append_assoc, take_padTo_append 64 _ (entryImage_length a.entry)]

/-- Settles O54: the codes of the image and the entry that its fields encode, and what the readback records
open with. -/
theorem entryImageReadsBack : Obligations.EntryImageReadsBack := by
  intro units e valid img
  have shows : ShowsEntry img e := showsEntry_entryImage e
  have encodes := imageEntry_of_showsEntry shows valid.size_lt valid.target_isSome_eq
  obtain ⟨-, arrival, kinds, -, -, action, -, -, -, -, -, -, presence, -⟩ := shows
  exact ⟨(entryOfImage_some arrival kinds action presence).trans (congrArg some encodes),
    stagingRecord_take e, fun hits origin => activeRecord_take ⟨e, hits, origin⟩, arrival, kinds, action,
    presence, encodes⟩

end Sys2Proof
end


section
/-! PROOFS. A step with a command waiting. -/

namespace Sys2Proof

open Machine

/-- The counterpart of `step_of_empty`: the step in terms of the queue it finds. -/
theorem step_of_front {s : State} {c : Instr} {rest : List Instr} (front : s.pending = c :: rest) :
    step s = exec c { s with pending := rest } := by
  unfold step
  rw [front]

/-- Settles O1: the queue was given as the command and the rest, so the step finds the command in front. -/
theorem stepRunsFrontCommand : Obligations.StepRunsFrontCommand := by
  intro s c rest
  have front : ({ s with pending := c :: rest } : State).pending = c :: rest := rfl
  exact step_of_front front

end Sys2Proof
end
